-- ==== Sys2Proof/Word.lean ====
section
/-!
DEFINITION. The words of the block (00_scope.md R8, 10_state.md R14, 30_encoding.md R53, R57).
-/

namespace Sys2Proof

/-- A byte, unsigned, bit 7 the most significant (R8). -/
abbrev Byte := BitVec 8

/-- A brightness operand: the 32-bit pattern of an IEEE 754 binary32 value (R57). -/
abbrev F32 := BitVec 32

/-- A pixel index operand, 16 bits unsigned (R53, D4). -/
abbrev Index := BitVec 16

/-- The 5-bit brightness field (R14). -/
abbrev Field := BitVec 5

/-- A command word, bit 79 the most significant (R53). -/
abbrev CmdWord := BitVec 80

end Sys2Proof
end

