-- ==== Sys2Proof/Syntax.lean ====
section
/-!
DEFINITION. The operations of the block, one constructor per row of spec/opcode_table.json (30_encoding.md R65).
-/

namespace Sys2Proof

/-- The transport variant chosen at construction with its own settings (00_scope.md R7, 10_state.md R23, R25).
Pin, bus and chip-select identifiers are plain numbers: no rule reads them. -/
inductive TransportChoice where
  | gpioBitbang (pinData pinClk : Nat)
  | hardwareSpi (bus cs hz mode : Nat)
  deriving DecidableEq, Repr

/-- The construction-time configuration, the operand of `CONSTRUCT` (R7, R115). -/
structure ConstructCfg where
  pixelCount : Nat
  transport : TransportChoice
  deriving DecidableEq, Repr

/-- One operation of the block. The commands come first, then the wire frames, then the internal operations
and the reset event, in the order of the opcode table. -/
inductive Instr where
  /-- `SET_PIXEL idx, r, g, b` (R83). -/
  | setPixel (idx : Index) (r g b : Byte)
  /-- `SET_PIXEL_RGBB idx, r, g, b, x` (R84). -/
  | setPixelRgbb (idx : Index) (r g b : Byte) (br : F32)
  /-- `SET_PIXEL_BRIGHTNESS idx, x` (R85). -/
  | setPixelBrightness (idx : Index) (br : F32)
  /-- `SET_ALL_PIXELS r, g, b` (R86). -/
  | setAllPixels (r g b : Byte)
  /-- `SET_ALL_PIXELS_RGBB r, g, b, x` (R87). -/
  | setAllPixelsRgbb (r g b : Byte) (br : F32)
  /-- `SET_ALL_PIXELS_BRIGHTNESS x` (R88). -/
  | setAllPixelsBrightness (br : F32)
  /-- `CLEAR` (R89). -/
  | clear
  /-- `FLUSH` (R92). -/
  | flush
  /-- `SHOW`, the document's other name for `FLUSH` (R92, R66); its word is `FLUSH`'s, so no word decodes to it. -/
  | showFrame
  /-- `SET_CLEAR_ON_TEARDOWN flag` (R90). -/
  | setClearOnTeardown (flag : Bool)
  /-- `TEARDOWN` (R97). -/
  | teardown
  /-- `DROP` (R98). -/
  | drop
  /-- `START_FRAME` (R48). -/
  | startFrame
  /-- `LED_FRAME` with its four fields (R49). -/
  | ledFrame (k : Field) (blue green red : Byte)
  /-- `END_FRAME`, as long as the block's `END_LEN` (R50). -/
  | endFrame
  /-- `PX.SET_RGB r, g, b` on `PIX[i]` (R67). -/
  | pxSetRgb (i : Index) (r g b : Byte)
  /-- `PX.SET_BRIGHTNESS x` on `PIX[i]` (R68). -/
  | pxSetBrightness (i : Index) (x : F32)
  /-- `PX.SET_RGBB r, g, b, x` on `PIX[i]` (R69). -/
  | pxSetRgbb (i : Index) (r g b : Byte) (x : F32)
  /-- `PX.RGB` of `PIX[i]` (R70). -/
  | pxRgb (i : Index)
  /-- `PX.BRIGHTNESS` of `PIX[i]` (R71). -/
  | pxBrightness (i : Index)
  /-- `PX.RGBB` of `PIX[i]` (R72). -/
  | pxRgbb (i : Index)
  /-- `PX.CLEAR` on `PIX[i]` (R73). -/
  | pxClear (i : Index)
  /-- `PX.RAW_BYTES` of `PIX[i]` (R74). -/
  | pxRawBytes (i : Index)
  /-- `PX.DEFAULT` (R75). -/
  | pxDefault
  /-- `TX.WRITE bytes` (R76, R80). -/
  | txWrite (bytes : List Byte)
  /-- `TX.WRITE bytes` of the GPIO bit-bang variant (R77). -/
  | txWriteGpio (bytes : List Byte)
  /-- `TX.WRITE bytes` of the hardware SPI variant (R79). -/
  | txWriteSpi (bytes : List Byte)
  /-- `TX.TEARDOWN` of the GPIO bit-bang variant (R81). -/
  | txTeardownGpio
  /-- `TX.TEARDOWN` of the hardware SPI variant (R82). -/
  | txTeardownSpi
  /-- `CONSTRUCT cfg`, the reset event (R115, R116). -/
  | construct (cfg : ConstructCfg)
  deriving DecidableEq, Repr

end Sys2Proof
end

