-- ==== Sys2Proof/Config.lean ====
section
/-!
DEFINITION. What is fixed for the machine (00_scope.md R7) and the free values: the environment's answers
(10_state.md R26), two constants without a body.
-/

namespace Sys2Proof

/-- The outcome of one transport write call (41_transport.md R78): all bytes sent; the first `j` sent and then
a failure; or, only where `TRANSPORT_LIVE` is not assumed, never returned (70_reset_and_hazards.md R125, U9). -/
inductive WriteOutcome where
  | ok
  | fail (j : Nat)
  | blocked
  deriving DecidableEq, Repr, Inhabited

/-- The outcome of acquiring one pin or opening the SPI channel (R26, R115). -/
inductive AcquireOutcome where
  | ok
  | fail
  deriving DecidableEq, Repr, Inhabited

/-- `N_MAX`, the largest pixel count (R7, D4). -/
def Config.nMax : Nat := 65535

/-- The default pixel count (R7). -/
def Config.defaultPixelCount : Nat := 8

/-- The reference board's data pin, BCM 23. PRESUMED (log 5): 93_implementation_defined.md G1, from outside the
source; no rule reads it. unsafe. -/
def Config.presumedPinData : Nat := 23

/-- The reference board's clock pin, BCM 24. PRESUMED (log 5): 93_implementation_defined.md G1. unsafe. -/
def Config.presumedPinClk : Nat := 24

/-- FREE VALUE (log 4), the oracle `WriteOutcome(k, bytes)` of R78: what the environment answers to the `k`-th
write call where the state's script of answers says nothing. It has no body, so no proof can see it. safe. -/
opaque Config.writeOutcome (k : Nat) (bytes : List Byte) : WriteOutcome

/-- FREE VALUE (log 4), the oracle `AcquireOutcome` of R26: what the environment answers to the `k`-th
acquisition where the state's script of answers says nothing. safe. -/
opaque Config.acquireOutcome (k : Nat) : AcquireOutcome

end Sys2Proof
end

