-- ==== Sys2Proof/WellFormed.lean ====
section
/-!
DEFINITION. Which operations are well formed. Only `CONSTRUCT` has operands the types do not bound already:
a pixel count above `N_MAX` is refused (00_scope.md R7, 93_implementation_defined.md U14) and an SPI mode is 0 to 3 (R7).
-/

namespace Sys2Proof

/-- An SPI mode is 0 to 3 (R7 "mode 0 to 3"). -/
def TransportChoice.wellFormed : TransportChoice → Bool
  | .gpioBitbang _ _ => true
  | .hardwareSpi _ _ _ mode => decide (mode ≤ 3)

/-- `N <= N_MAX` (R7, D4) and legal transport settings. -/
def ConstructCfg.wellFormed (c : ConstructCfg) : Bool :=
  decide (c.pixelCount ≤ Config.nMax) && c.transport.wellFormed

/-- Every field of every other operation is legal at every value (R62, R64). -/
def Instr.wellFormed : Instr → Bool
  | .setPixel _ _ _ _ => true
  | .setPixelRgbb _ _ _ _ _ => true
  | .setPixelBrightness _ _ => true
  | .setAllPixels _ _ _ => true
  | .setAllPixelsRgbb _ _ _ _ => true
  | .setAllPixelsBrightness _ => true
  | .clear => true
  | .flush => true
  | .showFrame => true
  | .setClearOnTeardown _ => true
  | .teardown => true
  | .drop => true
  | .startFrame => true
  | .ledFrame _ _ _ _ => true
  | .endFrame => true
  | .pxSetRgb _ _ _ _ => true
  | .pxSetBrightness _ _ => true
  | .pxSetRgbb _ _ _ _ _ => true
  | .pxRgb _ => true
  | .pxBrightness _ => true
  | .pxRgbb _ => true
  | .pxClear _ => true
  | .pxRawBytes _ => true
  | .pxDefault => true
  | .txWrite _ => true
  | .txWriteGpio _ => true
  | .txWriteSpi _ => true
  | .txTeardownGpio => true
  | .txTeardownSpi => true
  | .construct cfg => cfg.wellFormed

/-- The operations the command port takes (R54, R65): the twelve command rows of the table. -/
def Instr.isCommand : Instr → Bool
  | .setPixel _ _ _ _ => true
  | .setPixelRgbb _ _ _ _ _ => true
  | .setPixelBrightness _ _ => true
  | .setAllPixels _ _ _ => true
  | .setAllPixelsRgbb _ _ _ _ => true
  | .setAllPixelsBrightness _ => true
  | .clear => true
  | .flush => true
  | .showFrame => true
  | .setClearOnTeardown _ => true
  | .teardown => true
  | .drop => true
  | .startFrame => false
  | .ledFrame _ _ _ _ => false
  | .endFrame => false
  | .pxSetRgb _ _ _ _ => false
  | .pxSetBrightness _ _ => false
  | .pxSetRgbb _ _ _ _ _ => false
  | .pxRgb _ => false
  | .pxBrightness _ => false
  | .pxRgbb _ => false
  | .pxClear _ => false
  | .pxRawBytes _ => false
  | .pxDefault => false
  | .txWrite _ => false
  | .txWriteGpio _ => false
  | .txWriteSpi _ => false
  | .txTeardownGpio => false
  | .txTeardownSpi => false
  | .construct _ => false

end Sys2Proof
end

