-- ==== Sys2Proof/Decode.lean ====
section
/-!
DEFINITION. The decoder of command words (30_encoding.md R53 to R56) and of wire frames (R47 to R50), total and
rejecting by name, and after it the encoders written from the same tables.
-/

namespace Sys2Proof

/-- Why the decoder rejects what it is given. -/
inductive Reject where
  /-- A reserved operation code, `0x00` or `0x0C` to `0xFF` (R63). -/
  | reservedCode (op : Byte)
  /-- Bytes that are none of the three frame formats (R47 "three frame formats and no others"). -/
  | notAFrame
  deriving DecidableEq, Repr

/-! ### Fields of the command word (R53) -/

/-- `op`, bits 79 to 72. -/
def cmdOp (w : CmdWord) : Byte := w.extractLsb' 72 8

/-- `idx`, bits 71 to 56. -/
def cmdIdx (w : CmdWord) : Index := w.extractLsb' 56 16

/-- `r`, bits 55 to 48. -/
def cmdR (w : CmdWord) : Byte := w.extractLsb' 48 8

/-- `g`, bits 47 to 40. -/
def cmdG (w : CmdWord) : Byte := w.extractLsb' 40 8

/-- `b`, bits 39 to 32. -/
def cmdB (w : CmdWord) : Byte := w.extractLsb' 32 8

/-- `br`, bits 31 to 0. -/
def cmdBr (w : CmdWord) : F32 := w.extractLsb' 0 32

/-- The flag operand of `SET_CLEAR_ON_TEARDOWN`: bit 48, which is `r[0]` (R56). -/
def cmdFlag (w : CmdWord) : Bool := w.getLsbD 48

/-- The command a word stands for: the code selects it (R55) and the fields it does not use are ignored (R54). -/
def decodeCmd (w : CmdWord) : Except Reject Instr :=
  match (cmdOp w).toNat with
  | 0x01 => .ok (.setPixel (cmdIdx w) (cmdR w) (cmdG w) (cmdB w))
  | 0x02 => .ok (.setPixelRgbb (cmdIdx w) (cmdR w) (cmdG w) (cmdB w) (cmdBr w))
  | 0x03 => .ok (.setPixelBrightness (cmdIdx w) (cmdBr w))
  | 0x04 => .ok (.setAllPixels (cmdR w) (cmdG w) (cmdB w))
  | 0x05 => .ok (.setAllPixelsRgbb (cmdR w) (cmdG w) (cmdB w) (cmdBr w))
  | 0x06 => .ok (.setAllPixelsBrightness (cmdBr w))
  | 0x07 => .ok .clear
  | 0x08 => .ok .flush
  | 0x09 => .ok (.setClearOnTeardown (cmdFlag w))
  | 0x0A => .ok .teardown
  | 0x0B => .ok .drop
  | _ => .error (.reservedCode (cmdOp w))

/-! ### Wire frames -/

/-- The marker bits of an LED frame's first byte are set (R49). -/
def hasMarker (hdr : Byte) : Bool := hdr.extractLsb' 5 3 == 0b111#3

/-- The frame a byte sequence is, on a block whose end frame has `endLen` bytes: four zero bytes are a start frame
(R48), four bytes with the marker an LED frame (R49), `endLen` zero bytes an end frame (R50). Four zero bytes are
read as the start frame also where `endLen` is 4: nothing on the wire tells the two apart (20_memory.md R39). -/
def decodeFrame (endLen : Nat) (bytes : List Byte) : Except Reject Instr :=
  match bytes with
  | [b0, b1, b2, b3] =>
    if b0 = 0#8 ∧ b1 = 0#8 ∧ b2 = 0#8 ∧ b3 = 0#8 then .ok .startFrame
    else if hasMarker b0 then .ok (.ledFrame (b0.extractLsb' 0 5) b1 b2 b3)
    else .error .notAFrame
  | bs => if bs = List.replicate endLen 0#8 then .ok .endFrame else .error .notAFrame

/-! ### Encoders -/

/-- A command word from its fields, most significant first (R53). -/
def cmdWord (op : Byte) (idx : Index) (r g b : Byte) (br : F32) : CmdWord :=
  op ++ idx ++ r ++ g ++ b ++ br

/-- The header byte of an LED frame: marker bits over the brightness field (R49, R62). -/
def hdrByte (k : Field) : Byte := 0b111#3 ++ k

/-- The word of a command, its unused fields zero (R54); an operation the port does not take has none (R65).
`SHOW` has `FLUSH`'s word (R92). -/
def encodeCmd : Instr → Option CmdWord
  | .setPixel idx r g b => some (cmdWord 0x01 idx r g b 0)
  | .setPixelRgbb idx r g b br => some (cmdWord 0x02 idx r g b br)
  | .setPixelBrightness idx br => some (cmdWord 0x03 idx 0 0 0 br)
  | .setAllPixels r g b => some (cmdWord 0x04 0 r g b 0)
  | .setAllPixelsRgbb r g b br => some (cmdWord 0x05 0 r g b br)
  | .setAllPixelsBrightness br => some (cmdWord 0x06 0 0 0 0 br)
  | .clear => some (cmdWord 0x07 0 0 0 0 0)
  | .flush => some (cmdWord 0x08 0 0 0 0 0)
  | .showFrame => some (cmdWord 0x08 0 0 0 0 0)
  | .setClearOnTeardown flag => some (cmdWord 0x09 0 (if flag then 1 else 0) 0 0 0)
  | .teardown => some (cmdWord 0x0A 0 0 0 0 0)
  | .drop => some (cmdWord 0x0B 0 0 0 0 0)
  | .startFrame => none
  | .ledFrame _ _ _ _ => none
  | .endFrame => none
  | .pxSetRgb _ _ _ _ => none
  | .pxSetBrightness _ _ => none
  | .pxSetRgbb _ _ _ _ _ => none
  | .pxRgb _ => none
  | .pxBrightness _ => none
  | .pxRgbb _ => none
  | .pxClear _ => none
  | .pxRawBytes _ => none
  | .pxDefault => none
  | .txWrite _ => none
  | .txWriteGpio _ => none
  | .txWriteSpi _ => none
  | .txTeardownGpio => none
  | .txTeardownSpi => none
  | .construct _ => none

/-- The bytes of a wire frame in the order they are sent, for a block whose end frame has `endLen` bytes (R48 to R50);
no other operation is a frame. -/
def encodeFrame (endLen : Nat) : Instr → Option (List Byte)
  | .startFrame => some (List.replicate 4 0#8)
  | .ledFrame k blue green red => some [hdrByte k, blue, green, red]
  | .endFrame => some (List.replicate endLen 0#8)
  | .setPixel _ _ _ _ => none
  | .setPixelRgbb _ _ _ _ _ => none
  | .setPixelBrightness _ _ => none
  | .setAllPixels _ _ _ => none
  | .setAllPixelsRgbb _ _ _ _ => none
  | .setAllPixelsBrightness _ => none
  | .clear => none
  | .flush => none
  | .showFrame => none
  | .setClearOnTeardown _ => none
  | .teardown => none
  | .drop => none
  | .pxSetRgb _ _ _ _ => none
  | .pxSetBrightness _ _ => none
  | .pxSetRgbb _ _ _ _ _ => none
  | .pxRgb _ => none
  | .pxBrightness _ => none
  | .pxRgbb _ => none
  | .pxClear _ => none
  | .pxRawBytes _ => none
  | .pxDefault => none
  | .txWrite _ => none
  | .txWriteGpio _ => none
  | .txWriteSpi _ => none
  | .txTeardownGpio => none
  | .txTeardownSpi => none
  | .construct _ => none

/-! ### Words as the opcode table numbers them -/

/-- `n` bytes of a number, most significant byte first: the first byte sent is the highest (R49). -/
def wordBytes (n w : Nat) : List Byte :=
  (List.range n).map fun i => BitVec.ofNat 8 (w >>> (8 * (n - 1 - i)))

/-- The end-frame length that a table word is read with: the default block's (R7, R19). -/
def tableEndLen : Nat := 4 + (Config.defaultPixelCount + 15) / 16

/-- What the decoder reads from a row's word: rows of 80 bits are command words, shorter rows of whole bytes are
wire frames, first byte sent the most significant (R49). -/
def decodeTableWord (nbits w : Nat) : Option Instr :=
  if nbits = 80 then (decodeCmd (BitVec.ofNat 80 w)).toOption
  else if nbits % 8 = 0 then (decodeFrame tableEndLen (wordBytes (nbits / 8) (w % 2 ^ nbits))).toOption
  else none

end Sys2Proof
end

