-- ==== Sys2Proof/Machine/State.lean ====
section
/-!
DEFINITION. The state of the machine as plain data (10_state.md R13 to R28), the reasons a step can stop, and the
state after reset.
-/

namespace Sys2Proof.Machine

/-- Why the machine stops with a fault. -/
inductive Fault where
  /-- Raised by a transport write call that never returns (70_reset_and_hazards.md R125, U9: stuck). Possible only where
  `Params.transportLive` is false. It keeps no state: what reached the wire in that command is not recorded (DESIGN CHOICE,
  log 20). safe. -/
  | writeBlocked
  /-- Raised by a transport operation on a handle the block does not hold (41_transport.md R81 "the block holds no pin
  after this", 43_flush_teardown.md R99). No command reaches it from a block whose handles are held. safe (log 11). -/
  | handleReleased
  deriving DecidableEq, Repr

/-- Why a step gives an operation no meaning. -/
inductive Refusal where
  /-- Raised by an arm of `exec` whose instruction has no meaning yet. safe. -/
  | notModelled (mnemonic : String)
  /-- Raised by the fetch of a command word with a reserved code (30_encoding.md R63, U1). safe. -/
  | reservedCode (op : Byte)
  /-- Raised by the fetch of a wire frame that is none of the three formats (R47). safe. -/
  | notAFrame
  /-- Raised by the fetch of a `CONSTRUCT` above `N_MAX` or with an SPI mode above 3 (R7, U14). safe. -/
  | illFormed
  /-- Raised by every operation but `CONSTRUCT` and `PX.DEFAULT` where no block exists (R98, R116, U12). safe. -/
  | noBlock
  /-- Raised by the fetch of a command while another one runs (R119, U13). Not reached from a state whose sequencer is
  idle. safe. -/
  | busy
  /-- Raised by a transport row of the variant the block does not have (R76: the variant is fixed at construction). safe. -/
  | wrongVariant
  deriving DecidableEq, Repr

/-- A pixel record, its four bytes in raw order (R14). -/
structure Pixel where
  hdr : Byte
  blue : Byte
  green : Byte
  red : Byte
  deriving DecidableEq, Repr

/-- A pin handle: held, with the level last driven, or released; after release the level is no longer the block's
(R23, R81, U11). -/
inductive Handle where
  | held (level : Bool)
  | released
  deriving DecidableEq, Repr

/-- The GPIO bit-bang variant: its configuration and its two handles with `DATA_LVL` and `CLK_LVL` (R23, R25). -/
structure GpioPort where
  pinData : Nat
  pinClk : Nat
  data : Handle
  clk : Handle
  deriving DecidableEq, Repr

/-- The hardware SPI variant: its configuration and its handle (R23, R25). -/
structure SpiPort where
  bus : Nat
  cs : Nat
  hz : Nat
  mode : Nat
  isOpen : Bool
  deriving DecidableEq, Repr

/-- The transport, "a closed set of tagged variants" (R23). -/
inductive Transport where
  | gpio (g : GpioPort)
  | spi (p : SpiPort)
  deriving DecidableEq, Repr

/-- `PHASE` (R21). -/
inductive Phase where
  | idle
  | start
  | led
  | endFrame
  deriving DecidableEq, Repr

/-- The flush sequencer `PHASE`, `BYTE_IDX`, `BIT_IDX` (R21, D3). -/
structure Seq where
  phase : Phase
  byteIdx : Nat
  bitIdx : Nat
  deriving DecidableEq, Repr

/-- The sequencer outside a flush (R21, R28). -/
def Seq.idle : Seq := { phase := .idle, byteIdx := 0, bitIdx := 7 }

/-- A live Device Controller with its transport (R13, R16, R18 to R21, R23, R25). -/
structure Device where
  /-- `N` (R25). -/
  n : Nat
  /-- `PIX` (R16). -/
  pix : List Pixel
  /-- `COT` (R18). -/
  cot : Bool
  /-- `END_LEN` (R19). -/
  endLen : Nat
  /-- `REL` (R20). -/
  rel : Bool
  /-- `PHASE`, `BYTE_IDX`, `BIT_IDX` (R21). -/
  seq : Seq
  /-- `TRANSPORT`, its configuration and its handles (R23, R25). -/
  tx : Transport
  deriving DecidableEq, Repr

/-- `STATUS`; its fourth code is never produced (R22, U18). -/
inductive Status where
  | ok
  | hardware
  | construction
  deriving DecidableEq, Repr

/-- One pin operation of `PINLOG` (R24). -/
inductive PinOp where
  | data (level : Bool)
  | clkHigh
  | clkLow
  | releaseData
  | releaseClk
  deriving DecidableEq, Repr

/-- One entry of `WRITES`: the byte sequence passed and its outcome (R24). -/
structure WriteRec where
  bytes : List Byte
  outcome : WriteOutcome
  deriving DecidableEq, Repr

/-- The observation history, oldest first; no command reads it (R24). `WRITE_COUNT` is the length of `writes`. -/
structure History where
  writes : List WriteRec
  wire : List Byte
  pinlog : List PinOp
  deriving DecidableEq, Repr

/-- The history of a block that has just been constructed (R28). -/
def History.empty : History := { writes := [], wire := [], pinlog := [] }

/-- `POST_TEARDOWN_FLUSH` (R7, D16). -/
inductive PostTeardownFlush where
  | noopOk
  | fail
  deriving DecidableEq, Repr

/-- The open parameters of the step (R26), plain data that no step writes (log 7). -/
structure Params where
  postTeardownFlush : PostTeardownFlush
  /-- `GPIO_WRITE_CAN_FAIL` (R7, D12). -/
  gpioWriteCanFail : Bool
  /-- `TRANSPORT_LIVE`: every write call returns (R7, D24). -/
  transportLive : Bool
  deriving DecidableEq, Repr

/-- The environment (R13, R26). The scripts are answers fixed in advance, by call number; beyond a script's end the
answer is the free value of `Config` at the tick (log 3, log 4). The model's own fields. -/
structure Env where
  writeScript : List WriteOutcome
  acquireScript : List AcquireOutcome
  writeTick : Nat
  acquireTick : Nat
  deriving DecidableEq, Repr

/-- One request of the host, or of a component to another (R52, R65; log 2). -/
inductive Request where
  /-- A word on the command port (R52, R53). -/
  | command (w : CmdWord)
  /-- A wire frame handed to the transport, in the order it is sent (R47). -/
  | frame (bytes : List Byte)
  /-- A call with typed operands, the document's own interface; the only way to an operation that has no encoding
  (R65). -/
  | call (i : Instr)
  deriving DecidableEq, Repr

/-- What an internal operation returns to its caller (R70 to R76, R115); the model's own (log 8). -/
inductive Ret where
  | none
  | rgb (r g b : Byte)
  | brightness (x : F32)
  | rgbb (r g b : Byte) (x : F32)
  | bytes (bs : List Byte)
  | pixel (p : Pixel)
  | result (st : Status)
  deriving DecidableEq, Repr

/-- The whole machine. -/
structure State where
  /-- The block, where one exists: none after `DROP` (R98) and after a failed construction (R116). -/
  dev : Option Device
  /-- `STATUS` (R22). -/
  status : Status
  /-- `done`, the result port's pulse (R52). -/
  done : Bool
  /-- `WRITES`, `WIRE`, `PINLOG` (R24). -/
  hist : History
  params : Params
  env : Env
  /-- The host's requests still to come, the next one first (log 2). -/
  host : List Request
  /-- The value the last internal operation returned (log 8). -/
  ret : Ret
  deriving DecidableEq, Repr

/-- A fresh Pixel (R75): the byte `0xE7` is written, not computed. -/
def Pixel.default : Pixel := { hdr := 0xE7, blue := 0x00, green := 0x00, red := 0x00 }

/-- The default parameters (R7); `TRANSPORT_LIVE` assumed (DESIGN CHOICE, log 7, unsafe). -/
def Params.default : Params :=
  { postTeardownFlush := .noopOk, gpioWriteCanFail := false, transportLive := true }

/-- The machine right after reset: a successful construction (R28) of the default block of 8 pixels on the GPIO variant
(DESIGN CHOICE, log 1) with both lines driven low (D14), no request of the host yet (log 2). -/
def State.reset : State :=
  { dev := some
      { n := 8
        pix := List.replicate 8 Pixel.default
        cot := true
        endLen := 5
        rel := false
        seq := Seq.idle
        tx := .gpio
          { pinData := Config.presumedPinData
            pinClk := Config.presumedPinClk
            data := .held false
            clk := .held false } }
    status := .ok
    done := false
    hist := History.empty
    params := Params.default
    env := { writeScript := [], acquireScript := [], writeTick := 0, acquireTick := 0 }
    host := []
    ret := .none }

end Sys2Proof.Machine
end

