-- ==== Sys2Proof/Machine/Flags.lean ====
section
/-!
DEFINITION. The flags `COT`, `REL`, `STATUS` and the values derived from them (10_state.md R18 to R22), `END_LEN`, and the
ready line of the command port (30_encoding.md R52).
-/

namespace Sys2Proof.Machine

/-- The 2-bit code of `STATUS` (R22, D20). -/
def Status.code : Status → BitVec 2
  | .ok => 0
  | .hardware => 1
  | .construction => 2

/-- `END_LEN = 4 + ceil(N / 16)` (R19, R50). -/
def endLenOf (n : Nat) : Nat := 4 + (n + 15) / 16

/-- `COT <- flag` (R90). -/
def Device.setCot (d : Device) (flag : Bool) : Device := { d with cot := flag }

/-- `REL <- 1` (R97). -/
def Device.markReleased (d : Device) : Device := { d with rel := true }

/-- The result of a `FLUSH` after the teardown (R96). -/
def Params.postTeardownStatus (p : Params) : Status :=
  match p.postTeardownFlush with
  | .noopOk => .ok
  | .fail => .hardware

/-- `cmd_ready`: a block exists and no command is running (R21, R52). -/
def State.cmdReady (s : State) : Bool :=
  match s.dev with
  | none => false
  | some d => decide (d.seq.phase = .idle)

/-- `WRITE_COUNT`, "`len(WRITES)`" (R24). -/
def State.writeCount (s : State) : Nat := s.hist.writes.length

end Sys2Proof.Machine
end

