-- ==== Sys2Proof/Machine/Operands.lean ====
section
/-!
DEFINITION. Operand forms: the binary32 brightness operand and its conversions (30_encoding.md R57 to R60), the header
byte (R62), and pixel addressing (20_memory.md R32).

A finite binary32 value is a whole multiple of `2^-149`, so values are carried exactly as naturals in that unit.
-/

namespace Sys2Proof.Machine

/-! ### binary32 patterns (R57) -/

/-- What a binary32 pattern stands for; a finite magnitude is in units of `2^-149`. -/
inductive F32Value where
  | nan
  | infinite (neg : Bool)
  | finite (neg : Bool) (mag : Nat)
  deriving DecidableEq, Repr

/-- The value 1.0 in units of `2^-149`. -/
def f32One : Nat := 2 ^ 149

/-- The biased exponent, `w[30:23]`. -/
def f32Exp (w : F32) : Nat := (w.extractLsb' 23 8).toNat

/-- The fraction, `w[22:0]`. -/
def f32Frac (w : F32) : Nat := (w.extractLsb' 0 23).toNat

/-- The sign, `w[31]`. -/
def f32Neg (w : F32) : Bool := w.getLsbD 31

/-- The value of a pattern (R57). -/
def f32Value (w : F32) : F32Value :=
  if f32Exp w = 255 then
    if f32Frac w = 0 then .infinite (f32Neg w) else .nan
  else if f32Exp w = 0 then .finite (f32Neg w) (f32Frac w)
  else .finite (f32Neg w) ((2 ^ 23 + f32Frac w) * 2 ^ (f32Exp w - 1))

/-! ### `enc5` (R58) -/

/-- The clamp to `[0, 1]`, in units of `2^-149`; a NaN has none (R58: field 0 without a product). -/
def clampUnit : F32Value → Option Nat
  | .nan => none
  | .infinite neg => some (if neg then 0 else f32One)
  | .finite neg mag => some (if neg then 0 else min mag f32One)

/-- Rounding to binary32, nearest, ties to even, of a magnitude in units of `2^-149`: at most 24 significant bits are
kept, none of them below the unit (R58). -/
def roundBinary32 (p : Nat) : Nat :=
  let sh := Nat.log2 p - 23
  let q := p / 2 ^ sh
  let r := p % 2 ^ sh
  if 2 * r > 2 ^ sh ∨ (2 * r = 2 ^ sh ∧ q % 2 = 1) then (q + 1) * 2 ^ sh else q * 2 ^ sh

/-- `enc5(w)` (R58): NaN gives 0; else the clamped value times 31 exactly, rounded once to binary32, then floored. -/
def enc5 (w : F32) : Field :=
  match clampUnit (f32Value w) with
  | none => 0
  | some c => BitVec.ofNat 5 (roundBinary32 (31 * c) / f32One)

/-! ### The threshold form of `enc5` (R59) -/

/-- `THR[j]` for `j` from 1 to 31, in order (R59). -/
def thresholds : List F32 :=
  [0x3D042108, 0x3D842108, 0x3DC6318C, 0x3E042108, 0x3E25294A, 0x3E46318C, 0x3E6739CE, 0x3E842108] ++
  [0x3E94A529, 0x3EA5294A, 0x3EB5AD6B, 0x3EC6318C, 0x3ED6B5AD, 0x3EE739CE, 0x3EF7BDEF, 0x3F042108] ++
  [0x3F0C6319, 0x3F14A529, 0x3F1CE73A, 0x3F25294A, 0x3F2D6B5B, 0x3F35AD6B, 0x3F3DEF7C, 0x3F46318C] ++
  [0x3F4E739D, 0x3F56B5AD, 0x3F5EF7BE, 0x3F6739CE, 0x3F6F7BDF, 0x3F77BDEF, 0x3F800000]

/-- `enc5` without floating point (R59): the number of thresholds not above the pattern, for a non-negative number or
plus infinity, and 0 for every other pattern. -/
def enc5ByThresholds (w : F32) : Field :=
  if w.toNat ≤ 0x7F800000 then BitVec.ofNat 5 (thresholds.countP fun t => decide (t.toNat ≤ w.toNat)) else 0

/-! ### `dec5` (R60) -/

/-- `dec5(k)`: the binary32 value nearest to `k / 31`. `t` puts `k * 2^t / 31` at 24 bits; its nearest integer is the
significand, and no tie occurs since 31 is odd. -/
def dec5 (k : Field) : F32 :=
  if k = 0 then 0
  else
    let t := 28 - Nat.log2 k.toNat
    BitVec.ofNat 32 ((149 - t) * 2 ^ 23 + (2 * k.toNat * 2 ^ t + 31) / 62)

/-! ### The header byte (R14, R62) -/

/-- The brightness field, `hdr[4:0]`. -/
def Pixel.field (p : Pixel) : Field := p.hdr.extractLsb' 0 5

/-- The header assembled from a brightness operand: `0b111_00000 | enc5(br)` (R62, R68). -/
def brightnessHdr (br : F32) : Byte := 0xE0 ||| (enc5 br).zeroExtend 8

/-! ### Pixel addressing (R32) -/

/-- The record a per-pixel operation selects: `PIX[idx]` if `zext(idx) < N`, else none. -/
def Device.pixelAt (d : Device) (idx : Index) : Option Pixel :=
  if idx.toNat < d.n then d.pix[idx.toNat]? else none

/-- A per-pixel write: acts on `PIX[idx]` if `zext(idx) < N` and else does nothing. -/
def Device.modifyPixel (d : Device) (idx : Index) (f : Pixel → Pixel) : Device :=
  if idx.toNat < d.n then { d with pix := d.pix.modify idx.toNat f } else d

/-- A bulk write: acts on every record (R66 "apply uniformly to every pixel"). -/
def Device.modifyAll (d : Device) (f : Pixel → Pixel) : Device := { d with pix := d.pix.map f }

end Sys2Proof.Machine
end

