-- ==== Sys2Proof/Machine/Ops.lean ====
section
/-!
DEFINITION. The named operations the meanings are built from: the Pixel component's functions (40_pixel.md), the
transport (41_transport.md), the ordered sections of a flush (43_flush_teardown.md R92, R95), and the two ways an
operation ends: a command completes with a result (60_exceptions.md R100 to R107), an internal operation returns.
-/

namespace Sys2Proof.Machine

/-! ### The Pixel component (R67 to R75) -/

/-- `PX.SET_RGB` (R67). -/
def Pixel.setRgb (r g b : Byte) (p : Pixel) : Pixel := { p with red := r, green := g, blue := b }

/-- `PX.SET_BRIGHTNESS` (R68): all eight bits of the header are written. -/
def Pixel.setBrightness (x : F32) (p : Pixel) : Pixel := { p with hdr := brightnessHdr x }

/-- `PX.SET_RGBB` (R69), the composition of the two. -/
def Pixel.setRgbb (r g b : Byte) (x : F32) (p : Pixel) : Pixel := (p.setRgb r g b).setBrightness x

/-- `PX.CLEAR` (R73): the brightness is not touched. -/
def Pixel.clear (p : Pixel) : Pixel := p.setRgb 0 0 0

/-- `PX.RAW_BYTES` (R74). -/
def Pixel.rawBytes (p : Pixel) : List Byte := [p.hdr, p.blue, p.green, p.red]

/-- `PX.BRIGHTNESS` (R71). -/
def Pixel.brightness (p : Pixel) : F32 := dec5 p.field

/-- The 32-bit word view of a record (R17). -/
def Pixel.word (p : Pixel) : BitVec 32 := p.hdr ++ p.blue ++ p.green ++ p.red

/-- The byte view of the pixel buffer: the byte at raw offset `a = 4*i + o` (20_memory.md R31). -/
def State.rawByte (s : State) (a : Nat) : Option Byte :=
  match s.dev with
  | none => none
  | some d => (d.pix.flatMap Pixel.rawBytes)[a]?

/-! ### A live block with what it acts on -/

/-- A block with the history it appends to and the environment that answers it. -/
structure Block where
  dev : Device
  hist : History
  env : Env
  deriving DecidableEq, Repr

/-- `CLEAR` on the buffer (R89). -/
def Block.clearPixels (b : Block) : Block := { b with dev := b.dev.modifyAll Pixel.clear }

/-! ### Pin operations (R51, R77, R81) -/

/-- What one pin operation does to the two handles: a set drives its level, a release gives the handle up. -/
def GpioPort.act (g : GpioPort) : PinOp → GpioPort
  | .data level => { g with data := .held level }
  | .clkHigh => { g with clk := .held true }
  | .clkLow => { g with clk := .held false }
  | .releaseData => { g with data := .released }
  | .releaseClk => { g with clk := .released }

/-- Pin operations in order. -/
def GpioPort.actAll (g : GpioPort) (ops : List PinOp) : GpioPort := ops.foldl GpioPort.act g

/-- One bit cell: set data line, raise clock, lower clock (R51). -/
def bitCell (bit : Bool) : List PinOp := [.data bit, .clkHigh, .clkLow]

/-- The bits of a byte in the order sent, bit 7 first (R34, R51). -/
def byteBits (x : Byte) : List Bool :=
  [x.getLsbD 7, x.getLsbD 6, x.getLsbD 5, x.getLsbD 4, x.getLsbD 3, x.getLsbD 2, x.getLsbD 1, x.getLsbD 0]

/-- The bits of a byte sequence in the order sent (R34). -/
def bitsOf (bytes : List Byte) : List Bool := bytes.flatMap byteBits

/-- The pin operations that send a byte sequence (R51, R77). -/
def pinOpsOf (bytes : List Byte) : List PinOp := (bitsOf bytes).flatMap bitCell

/-- Pin operations on the transport, logged (R77, R81); the SPI variant has no pins of the block's (R79). -/
def Block.drivePins (ops : List PinOp) (b : Block) : Block :=
  match b.dev.tx with
  | .gpio g =>
    { b with
      dev := { b.dev with tx := .gpio (g.actAll ops) }
      hist := { b.hist with pinlog := b.hist.pinlog ++ ops } }
  | .spi _ => b

/-! ### The environment's answers (R26, R78) -/

/-- A handle is held. -/
def Handle.isHeld : Handle → Bool
  | .held _ => true
  | .released => false

/-- The transport holds what a write needs: both pins (R77) or the open channel (R79). -/
def Transport.usable : Transport → Bool
  | .gpio g => g.data.isHeld && g.clk.isHeld
  | .spi p => p.isOpen

/-- A write that cannot fail: the GPIO variant where `GPIO_WRITE_CAN_FAIL` is false (R77, R78). -/
def Transport.writeCannotFail (p : Params) : Transport → Bool
  | .gpio _ => !p.gpioWriteCanFail
  | .spi _ => false

/-- The environment's answer to the next write call: its script's, or else the free value (log 4). -/
def Env.writeAnswer (e : Env) (bytes : List Byte) : WriteOutcome :=
  (e.writeScript[e.writeTick]?).getD (Config.writeOutcome e.writeTick bytes)

/-- The environment's answer to acquisition number `k` from now. -/
def Env.acquireAnswer (e : Env) (k : Nat) : AcquireOutcome :=
  (e.acquireScript[e.acquireTick + k]?).getD (Config.acquireOutcome (e.acquireTick + k))

/-- An answer as the parameters allow it (R78, R125): a failure has sent at most the whole sequence, a GPIO write
fails only where the parameter says so, and a call that never returns exists only where `TRANSPORT_LIVE` is not
assumed. Every allowed outcome is some answer's, so an answer that is not allowed reads as `ok` (log 4). -/
def allowedOutcome (p : Params) (tx : Transport) (len : Nat) (answer : WriteOutcome) : WriteOutcome :=
  if p.transportLive && tx.writeCannotFail p then .ok
  else
    match answer with
    | .ok => .ok
    | .fail j => if tx.writeCannotFail p then .ok else .fail (min j len)
    | .blocked => if p.transportLive then .ok else .blocked

/-- `WriteOutcome(k, bytes)` for the call the block makes next (R78). -/
def Block.nextOutcome (p : Params) (bytes : List Byte) (b : Block) : WriteOutcome :=
  allowedOutcome p b.dev.tx bytes.length (b.env.writeAnswer bytes)

/-! ### `TX.WRITE` (R76, R77, R79, R80) -/

/-- What a call with an outcome put on the wire: all of its bytes, or the first `j` (R76, R78). Of a call that never returns the spec
does not say how much was sent; none is counted here, DESIGN CHOICE (log 20), and no operation records such a call. safe. -/
def sentBytes (bytes : List Byte) : WriteOutcome → List Byte
  | .ok => bytes
  | .fail j => bytes.take j
  | .blocked => []

/-- A returned write call: what was sent is transmitted by the variant's rule and appended to `WIRE`, and the call to
`WRITES` (R76). -/
def Block.recordWrite (bytes : List Byte) (out : WriteOutcome) (b : Block) : Block :=
  let b' := b.drivePins (pinOpsOf (sentBytes bytes out))
  { b' with
    hist := { b'.hist with
      wire := b'.hist.wire ++ sentBytes bytes out
      writes := b'.hist.writes ++ [{ bytes := bytes, outcome := out }] }
    env := { b'.env with writeTick := b'.env.writeTick + 1 } }

/-- One transport write call (R76), dispatched on the variant fixed at construction. A call that never returns answers a fault without a
state, so nothing of it, nor of the calls made before it in the same command, is recorded (log 20). -/
def Block.txWrite (p : Params) (bytes : List Byte) (b : Block) : Except Fault (Status × Block) :=
  if b.dev.tx.usable then
    match b.nextOutcome p bytes with
    | .blocked => .error .writeBlocked
    | .ok => .ok (.ok, b.recordWrite bytes .ok)
    | .fail j => .ok (.hardware, b.recordWrite bytes (.fail j))
  else .error .handleReleased

/-! ### The sections of a frame (R92, R95) -/

/-- `PHASE <- ph`, at the first bit of the section (R21). -/
def Block.enterPhase (ph : Phase) (b : Block) : Block :=
  { b with dev := { b.dev with seq := { phase := ph, byteIdx := 0, bitIdx := 7 } } }

/-- `PHASE <- IDLE` (R21). -/
def Block.toIdle (b : Block) : Block := { b with dev := { b.dev with seq := Seq.idle } }

/-- Sections sent in order, each as exactly one write call, stopping at the first call that fails (R93, R95). -/
def sendSections (p : Params) : List (Phase × List Byte) → Block → Except Fault (Status × Block)
  | [], b => .ok (.ok, b.toIdle)
  | (ph, bytes) :: rest, b =>
    match (b.enterPhase ph).txWrite p bytes with
    | .error f => .error f
    | .ok (st, b') => if st = .ok then sendSections p rest b' else .ok (st, b'.toIdle)

/-! ### `TX.TEARDOWN` (R81, R82) -/

/-- The transport's teardown: the GPIO variant releases data, then clock; the SPI variant does nothing. -/
def Block.txTeardown (b : Block) : Except Fault Block :=
  match b.dev.tx with
  | .gpio g =>
    if g.data.isHeld && g.clk.isHeld then .ok (b.drivePins [.releaseData, .releaseClk]) else .error .handleReleased
  | .spi _ => .ok b

/-! ### How an operation ends -/

/-- A command completes: `STATUS <- st` and `done` pulses (R22, R52). With `.hardware` this is
`raise TransportError(Hardware)` (00_scope.md R9, R100). An error is this result and nothing else: nothing is saved,
control goes nowhere, and there is no return from it, since nothing is restored (R105, R107). -/
def State.complete (s : State) (st : Status) : State := { s with status := st, done := true }

/-- An internal operation returns a value to its caller; no flag is written (R67 to R76). -/
def State.answer (s : State) (v : Ret) : State := { s with ret := v }

/-- The block and what it acts on, put back. -/
def State.put (s : State) (b : Block) : State := { s with dev := some b.dev, hist := b.hist, env := b.env }

/-- An operation of the live block; without a block it has no meaning (R98, R116, U12). -/
def State.withBlock (s : State) (f : Block → Host.Outcome State Fault Refusal) : Host.Outcome State Fault Refusal :=
  match s.dev with
  | none => .refused .noBlock
  | some d => f { dev := d, hist := s.hist, env := s.env }

/-- A command: it runs on the block and completes with its result. -/
def State.runCommand (s : State) (f : Block → Except Fault (Status × Block)) : Host.Outcome State Fault Refusal :=
  s.withBlock fun b =>
    match f b with
    | .error e => .fault e
    | .ok (st, b') => .next ((s.put b').complete st)

/-- An internal operation with a result: it runs on the block and returns its result to its caller. -/
def State.runInternal (s : State) (f : Block → Except Fault (Status × Block)) : Host.Outcome State Fault Refusal :=
  s.withBlock fun b =>
    match f b with
    | .error e => .fault e
    | .ok (st, b') => .next ((s.put b').answer (.result st))

/-- An in-memory command (R91): it changes the device only and always completes with `Ok`. -/
def State.runSetter (s : State) (f : Device → Device) : Host.Outcome State Fault Refusal :=
  s.runCommand fun b => .ok (.ok, { b with dev := f b.dev })

/-- An in-memory Pixel operation (40_pixel.md): it changes the device only and returns nothing. -/
def State.runPixelOp (s : State) (f : Device → Device) : Host.Outcome State Fault Refusal :=
  s.withBlock fun b => .next ((s.put { b with dev := f b.dev }).answer .none)

/-- A Pixel getter on `PIX[i]`: it changes nothing and returns a value; where no record is selected there is nothing to
return (log 10). -/
def State.runGetter (s : State) (i : Index) (f : Pixel → Ret) : Host.Outcome State Fault Refusal :=
  s.withBlock fun b =>
    match b.dev.pixelAt i with
    | some p => .next (s.answer (f p))
    | none => .next (s.answer .none)

end Sys2Proof.Machine
end

