-- ==== Sys2Proof/Machine/Construct.lean ====
section
/-!
DEFINITION. Construction, the block's reset (70_reset_and_hazards.md R115 to R117, 10_state.md R28).
-/

namespace Sys2Proof.Machine

/-- The state step 2 of `CONSTRUCT` makes (R115): default pixels, `COT` 1, `END_LEN` from `N`, `REL` 0, an idle sequencer. -/
def Device.fresh (n : Nat) (tx : Transport) : Device :=
  { n := n
    pix := List.replicate n Pixel.default
    cot := true
    endLen := endLenOf n
    rel := false
    seq := Seq.idle
    tx := tx }

/-- A successful construction after `k` acquisitions: a fresh block, `STATUS` 0, an empty history (R28, R115). -/
def State.created (s : State) (k n : Nat) (tx : Transport) : State :=
  { s with
    dev := some (Device.fresh n tx)
    status := .ok
    done := false
    hist := History.empty
    env := { s.env with acquireTick := s.env.acquireTick + k }
    ret := .result .ok }

/-- A failed construction after `k` acquisitions: no block, `STATUS` 2, nothing transmitted; `ops` are the releases done
on the way out (R101, R116). -/
def State.notCreated (s : State) (k : Nat) (ops : List PinOp) : State :=
  { s with
    dev := none
    status := .construction
    done := false
    hist := { History.empty with pinlog := ops }
    env := { s.env with acquireTick := s.env.acquireTick + k }
    ret := .result .construction }

/-- `CONSTRUCT cfg` (R115): the transport is acquired first, data pin before clock pin; where the clock pin fails the data
pin is released (R116). Both lines are driven low (D14). -/
def State.constructed (s : State) (cfg : ConstructCfg) : State :=
  match cfg.transport with
  | .gpioBitbang pinData pinClk =>
    match s.env.acquireAnswer 0, s.env.acquireAnswer 1 with
    | .fail, _ => s.notCreated 1 []
    | .ok, .fail => s.notCreated 2 [.releaseData]
    | .ok, .ok =>
      s.created 2 cfg.pixelCount
        (.gpio { pinData := pinData, pinClk := pinClk, data := .held false, clk := .held false })
  | .hardwareSpi bus cs hz mode =>
    match s.env.acquireAnswer 0 with
    | .fail => s.notCreated 1 []
    | .ok =>
      s.created 1 cfg.pixelCount (.spi { bus := bus, cs := cs, hz := hz, mode := mode, isOpen := true })

/-- `CONSTRUCT cfg` (R115, R116); a block that is still alive is replaced (log 12). -/
def execConstruct (cfg : ConstructCfg) (s : State) : Host.Outcome State Fault Refusal := .next (s.constructed cfg)

end Sys2Proof.Machine
end

