-- ==== Sys2Proof/Machine/Flush.lean ====
section
/-!
DEFINITION. Flush, teardown and end of life (43_flush_teardown.md R92 to R99).
-/

namespace Sys2Proof.Machine

/-- A run of zero bytes, `zeros(n)` (00_scope.md R9). -/
def zeros (n : Nat) : List Byte := List.replicate n 0#8

/-- All LED frames, pixel 0 first (R93). -/
def Device.ledBytes (d : Device) : List Byte := d.pix.flatMap Pixel.rawBytes

/-- The three write calls of a flush, in order (R92): start frame, all LED frames together, end frame. -/
def Device.flushSections (d : Device) : List (Phase × List Byte) :=
  [(.start, zeros 4), (.led, d.ledBytes), (.endFrame, zeros d.endLen)]

/-- The bytes of one whole frame (20_memory.md R39). -/
def Device.flushFrame (d : Device) : List Byte := zeros 4 ++ d.ledBytes ++ zeros d.endLen

/-- The body of `FLUSH` (R92); after the teardown no write call is made (R96). -/
def flushBlock (p : Params) (b : Block) : Except Fault (Status × Block) :=
  if b.dev.rel then .ok (p.postTeardownStatus, b) else sendSections p b.dev.flushSections b

/-- The unconditional end of a teardown: `TX.TEARDOWN`, then `REL <- 1`; the result is the one kept (R97). -/
def releaseBlock (res : Status) (b : Block) : Except Fault (Status × Block) :=
  match b.txTeardown with
  | .error f => .error f
  | .ok b' => .ok (res, { b' with dev := b'.dev.markReleased })

/-- The teardown, run exactly once (R97, R98, R99): where `REL = 1` nothing is done; else the optional clear and flush,
whose failure does not stop it, and then the release. -/
def teardownBlock (p : Params) (b : Block) : Except Fault (Status × Block) :=
  if b.dev.rel then .ok (.ok, b)
  else if b.dev.cot then
    match flushBlock p b.clearPixels with
    | .error f => .error f
    | .ok (res, b') => releaseBlock res b'
  else releaseBlock .ok b

/-- `FLUSH` (R92 to R96). -/
def execFlush (s : State) : Host.Outcome State Fault Refusal := s.runCommand (flushBlock s.params)

/-- `SHOW`, which is `FLUSH` (R66, R92). -/
def execShow (s : State) : Host.Outcome State Fault Refusal := s.runCommand (flushBlock s.params)

/-- `TEARDOWN` (R97): it reports the inner flush's result after the release has been done. -/
def execTeardown (s : State) : Host.Outcome State Fault Refusal := s.runCommand (teardownBlock s.params)

/-- `DROP` (R98): the teardown's result is discarded, nothing is reported, and the block ceases to exist; the observation
history is what is left (log 15). -/
def execDrop (s : State) : Host.Outcome State Fault Refusal :=
  s.withBlock fun b =>
    match teardownBlock s.params b with
    | .error f => .fault f
    | .ok (_, b') => .next { s with dev := none, done := false, hist := b'.hist, env := b'.env }

end Sys2Proof.Machine
end

