-- ==== Sys2Proof/Machine/Frames.lean ====
section
/-!
DEFINITION. The wire-frame rows of the table (30_encoding.md R48 to R50) as operations: the transport is handed that frame
as one write call, as a flush hands it its sections (log 9).
-/

namespace Sys2Proof.Machine

/-- One frame sent in its phase, guarded by `REL` as the flush it belongs to is (R96). -/
def frameBlock (p : Params) (ph : Phase) (bytes : List Byte) (b : Block) : Except Fault (Status × Block) :=
  if b.dev.rel then .ok (p.postTeardownStatus, b) else sendSections p [(ph, bytes)] b

/-- `START_FRAME`: 4 zero bytes (R48). -/
def execStartFrame (s : State) : Host.Outcome State Fault Refusal :=
  s.runInternal (frameBlock s.params .start (zeros 4))

/-- `LED_FRAME`: `111kkkkk bbbbbbbb gggggggg rrrrrrrr` (R49). -/
def execLedFrame (k : Field) (blue green red : Byte) (s : State) : Host.Outcome State Fault Refusal :=
  s.runInternal (frameBlock s.params .led [hdrByte k, blue, green, red])

/-- `END_FRAME`: `END_LEN` zero bytes (R50, R94). -/
def execEndFrame (s : State) : Host.Outcome State Fault Refusal :=
  s.runInternal fun b => frameBlock s.params .endFrame (zeros b.dev.endLen) b

end Sys2Proof.Machine
end

