-- ==== Sys2Proof/Machine/PixelOps.lean ====
section
/-!
DEFINITION. The Pixel operations as operations on `PIX[i]` (40_pixel.md R67 to R75; the record they act on: log 10). None
writes a flag and none can raise an error.
-/

namespace Sys2Proof.Machine

/-- `PX.SET_RGB r, g, b` on `PIX[i]` (R67). -/
def execPxSetRgb (i : Index) (r g b : Byte) (s : State) : Host.Outcome State Fault Refusal :=
  s.runPixelOp fun d => d.modifyPixel i (Pixel.setRgb r g b)

/-- `PX.SET_BRIGHTNESS x` on `PIX[i]` (R68). -/
def execPxSetBrightness (i : Index) (x : F32) (s : State) : Host.Outcome State Fault Refusal :=
  s.runPixelOp fun d => d.modifyPixel i (Pixel.setBrightness x)

/-- `PX.SET_RGBB r, g, b, x` on `PIX[i]` (R69). -/
def execPxSetRgbb (i : Index) (r g b : Byte) (x : F32) (s : State) : Host.Outcome State Fault Refusal :=
  s.runPixelOp fun d => d.modifyPixel i (Pixel.setRgbb r g b x)

/-- `PX.RGB` of `PIX[i]`: red, green, blue (R70). -/
def execPxRgb (i : Index) (s : State) : Host.Outcome State Fault Refusal :=
  s.runGetter i fun p => .rgb p.red p.green p.blue

/-- `PX.BRIGHTNESS` of `PIX[i]` (R71). -/
def execPxBrightness (i : Index) (s : State) : Host.Outcome State Fault Refusal :=
  s.runGetter i fun p => .brightness p.brightness

/-- `PX.RGBB` of `PIX[i]` (R72). -/
def execPxRgbb (i : Index) (s : State) : Host.Outcome State Fault Refusal :=
  s.runGetter i fun p => .rgbb p.red p.green p.blue p.brightness

/-- `PX.CLEAR` on `PIX[i]` (R73). -/
def execPxClear (i : Index) (s : State) : Host.Outcome State Fault Refusal :=
  s.runPixelOp fun d => d.modifyPixel i Pixel.clear

/-- `PX.RAW_BYTES` of `PIX[i]` (R74). -/
def execPxRawBytes (i : Index) (s : State) : Host.Outcome State Fault Refusal :=
  s.runGetter i fun p => .bytes p.rawBytes

/-- `PX.DEFAULT` (R75): the record a construction makes; it needs no block. -/
def execPxDefault (s : State) : Host.Outcome State Fault Refusal := .next (s.answer (.pixel Pixel.default))

end Sys2Proof.Machine
end

