-- ==== Sys2Proof/Machine/Setters.lean ====
section
/-!
DEFINITION. The Device Controller's buffer and flag commands (42_controller_setters.md R83 to R91).
-/

namespace Sys2Proof.Machine

/-- `SET_PIXEL idx, r, g, b` (R83). -/
def execSetPixel (idx : Index) (r g b : Byte) (s : State) : Host.Outcome State Fault Refusal :=
  s.runSetter fun d => d.modifyPixel idx (Pixel.setRgb r g b)

/-- `SET_PIXEL_RGBB idx, r, g, b, x` (R84). -/
def execSetPixelRgbb (idx : Index) (r g b : Byte) (br : F32) (s : State) : Host.Outcome State Fault Refusal :=
  s.runSetter fun d => d.modifyPixel idx (Pixel.setRgbb r g b br)

/-- `SET_PIXEL_BRIGHTNESS idx, x` (R85). -/
def execSetPixelBrightness (idx : Index) (br : F32) (s : State) : Host.Outcome State Fault Refusal :=
  s.runSetter fun d => d.modifyPixel idx (Pixel.setBrightness br)

/-- `SET_ALL_PIXELS r, g, b` (R86). -/
def execSetAllPixels (r g b : Byte) (s : State) : Host.Outcome State Fault Refusal :=
  s.runSetter fun d => d.modifyAll (Pixel.setRgb r g b)

/-- `SET_ALL_PIXELS_RGBB r, g, b, x` (R87). -/
def execSetAllPixelsRgbb (r g b : Byte) (br : F32) (s : State) : Host.Outcome State Fault Refusal :=
  s.runSetter fun d => d.modifyAll (Pixel.setRgbb r g b br)

/-- `SET_ALL_PIXELS_BRIGHTNESS x` (R88). -/
def execSetAllPixelsBrightness (br : F32) (s : State) : Host.Outcome State Fault Refusal :=
  s.runSetter fun d => d.modifyAll (Pixel.setBrightness br)

/-- `CLEAR` (R89): every colour byte 0, the brightness untouched. -/
def execClear (s : State) : Host.Outcome State Fault Refusal :=
  s.runSetter fun d => d.modifyAll Pixel.clear

/-- `SET_CLEAR_ON_TEARDOWN flag` (R90). -/
def execSetClearOnTeardown (flag : Bool) (s : State) : Host.Outcome State Fault Refusal :=
  s.runSetter fun d => d.setCot flag

end Sys2Proof.Machine
end

