-- ==== Sys2Proof/Machine/TransportOps.lean ====
section
/-!
DEFINITION. The Serial Transport's operations (41_transport.md R76 to R82). No flag is written: the caller sets `STATUS` and
`REL`. A row of one variant is the same call on a block of that variant; the other variant has no such call (log 11).
-/

namespace Sys2Proof.Machine

/-- `TX.WRITE bytes` (R76, R80), dispatched on the variant. -/
def execTxWrite (bytes : List Byte) (s : State) : Host.Outcome State Fault Refusal :=
  s.runInternal (Block.txWrite s.params bytes)

/-- `TX.WRITE bytes` of the GPIO bit-bang variant (R77). -/
def execTxWriteGpio (bytes : List Byte) (s : State) : Host.Outcome State Fault Refusal :=
  s.withBlock fun b =>
    match b.dev.tx with
    | .gpio _ => s.runInternal (Block.txWrite s.params bytes)
    | .spi _ => .refused .wrongVariant

/-- `TX.WRITE bytes` of the hardware SPI variant (R79): one call with the whole sequence. -/
def execTxWriteSpi (bytes : List Byte) (s : State) : Host.Outcome State Fault Refusal :=
  s.withBlock fun b =>
    match b.dev.tx with
    | .gpio _ => .refused .wrongVariant
    | .spi _ => s.runInternal (Block.txWrite s.params bytes)

/-- `TX.TEARDOWN` of the GPIO bit-bang variant (R81): data released, then clock. -/
def execTxTeardownGpio (s : State) : Host.Outcome State Fault Refusal :=
  s.withBlock fun b =>
    match b.dev.tx with
    | .gpio _ =>
      match b.txTeardown with
      | .error f => .fault f
      | .ok b' => .next ((s.put b').answer .none)
    | .spi _ => .refused .wrongVariant

/-- `TX.TEARDOWN` of the hardware SPI variant (R82): nothing. -/
def execTxTeardownSpi (s : State) : Host.Outcome State Fault Refusal :=
  s.withBlock fun b =>
    match b.dev.tx with
    | .gpio _ => .refused .wrongVariant
    | .spi _ => .next (s.answer .none)

end Sys2Proof.Machine
end

