-- ==== Sys2Proof/Machine/Dispatch.lean ====
section
/-!
DEFINITION. One arm per operation, each a direct call of its meaning.
-/

namespace Sys2Proof.Machine

/-- What an operation does in a state. -/
def exec (i : Instr) (s : State) : Host.Outcome State Fault Refusal :=
  match i with
  | .setPixel idx r g b => Sys2Proof.Machine.execSetPixel idx r g b s
  | .setPixelRgbb idx r g b br => Sys2Proof.Machine.execSetPixelRgbb idx r g b br s
  | .setPixelBrightness idx br => Sys2Proof.Machine.execSetPixelBrightness idx br s
  | .setAllPixels r g b => Sys2Proof.Machine.execSetAllPixels r g b s
  | .setAllPixelsRgbb r g b br => Sys2Proof.Machine.execSetAllPixelsRgbb r g b br s
  | .setAllPixelsBrightness br => Sys2Proof.Machine.execSetAllPixelsBrightness br s
  | .clear => Sys2Proof.Machine.execClear s
  | .flush => Sys2Proof.Machine.execFlush s
  | .showFrame => Sys2Proof.Machine.execShow s
  | .setClearOnTeardown flag => Sys2Proof.Machine.execSetClearOnTeardown flag s
  | .teardown => Sys2Proof.Machine.execTeardown s
  | .drop => Sys2Proof.Machine.execDrop s
  | .startFrame => Sys2Proof.Machine.execStartFrame s
  | .ledFrame k blue green red => Sys2Proof.Machine.execLedFrame k blue green red s
  | .endFrame => Sys2Proof.Machine.execEndFrame s
  | .pxSetRgb j r g b => Sys2Proof.Machine.execPxSetRgb j r g b s
  | .pxSetBrightness j x => Sys2Proof.Machine.execPxSetBrightness j x s
  | .pxSetRgbb j r g b x => Sys2Proof.Machine.execPxSetRgbb j r g b x s
  | .pxRgb j => Sys2Proof.Machine.execPxRgb j s
  | .pxBrightness j => Sys2Proof.Machine.execPxBrightness j s
  | .pxRgbb j => Sys2Proof.Machine.execPxRgbb j s
  | .pxClear j => Sys2Proof.Machine.execPxClear j s
  | .pxRawBytes j => Sys2Proof.Machine.execPxRawBytes j s
  | .pxDefault => Sys2Proof.Machine.execPxDefault s
  | .txWrite bytes => Sys2Proof.Machine.execTxWrite bytes s
  | .txWriteGpio bytes => Sys2Proof.Machine.execTxWriteGpio bytes s
  | .txWriteSpi bytes => Sys2Proof.Machine.execTxWriteSpi bytes s
  | .txTeardownGpio => Sys2Proof.Machine.execTxTeardownGpio s
  | .txTeardownSpi => Sys2Proof.Machine.execTxTeardownSpi s
  | .construct cfg => Sys2Proof.Machine.execConstruct cfg s

end Sys2Proof.Machine
end

