-- ==== Sys2Proof/Machine/Fetch.lean ====
section
/-!
DEFINITION. What a step takes: the host's next request, decoded (30_encoding.md R52, R53, R63).
-/

namespace Sys2Proof.Machine

/-- What the next step does. -/
inductive Fetched where
  /-- Nothing is presented (`cmd_valid = 0`). -/
  | idle
  /-- A request that has no meaning, by name. -/
  | reject (r : Refusal)
  /-- The operation to run. -/
  | run (i : Instr)
  deriving DecidableEq, Repr

/-- A decoder's rejection as the machine's refusal. -/
def refusalOf : Reject → Refusal
  | .reservedCode op => .reservedCode op
  | .notAFrame => .notAFrame

/-- What a decoder answered, as what the step does; only a well-formed operation runs. -/
def fetchedOf : Except Reject Instr → Fetched
  | .error e => .reject (refusalOf e)
  | .ok i => if i.wellFormed then .run i else .reject .illFormed

/-- The next request, decoded: a command word is taken only while `cmd_ready` is 1 (R52); a wire frame is read with the
block's own `END_LEN` (R50); a call has its operands already (R65). -/
def State.fetch (s : State) : Fetched :=
  match s.host with
  | [] => .idle
  | .command w :: _ =>
    match s.dev with
    | none => .reject .noBlock
    | some _ => if s.cmdReady then fetchedOf (decodeCmd w) else .reject .busy
  | .frame bytes :: _ =>
    match s.dev with
    | none => .reject .noBlock
    | some d => fetchedOf (decodeFrame d.endLen bytes)
  | .call i :: _ => fetchedOf (.ok i)

/-- The request is taken from the host, and the pulse of the command before it is over (R52). -/
def State.take (s : State) : State := { s with host := s.host.tail, done := false }

/-- A step in which nothing is presented: the block keeps all its state (60_exceptions.md R114); the pulse is over. -/
def State.wait (s : State) : State := { s with done := false }

/-- A table word as a request: 80 bits are a command word, fewer are a wire frame, first byte sent the most significant. -/
def requestOf (nbits w : Nat) : Request :=
  if nbits = 80 then .command (BitVec.ofNat 80 w) else .frame (wordBytes (nbits / 8) (w % 2 ^ nbits))

end Sys2Proof.Machine
end

