-- ==== Sys2Proof/Machine/Step.lean ====
section
/-!
DEFINITION. One step of the machine: one request taken and run to completion (00_scope.md R11), or nothing to do.
-/

namespace Sys2Proof.Machine

/-- One step (R11, R52). -/
def step (s : State) : Host.Outcome State Fault Refusal :=
  match s.fetch with
  | .idle => .next s.wait
  | .reject r => .refused r
  | .run i => exec i s.take

/-- The state with a table row's word presented first (log 2): the request goes to the head of the host's list, which is
where `step` fetches from. -/
def State.withFetchWord (s : State) (nbits w : Nat) : State := { s with host := requestOf nbits w :: s.host }

end Sys2Proof.Machine
end

