-- ==== Sys2Proof/Machine/Sequencer.lean ====
section
/-!
DEFINITION. The flush sequencer stepped bit by bit (10_state.md R21, D3): the finer machine that the atomic `FLUSH` of
Machine/Flush.lean stands for. `exec` does not call it; an obligation says that it sends the same bits.
-/

namespace Sys2Proof.Machine

/-- How many bytes `BYTE_IDX` counts in a phase (R21). -/
def Device.sectionLen (d : Device) : Phase → Nat
  | .idle => 0
  | .start => 4
  | .led => 4 * d.n
  | .endFrame => d.endLen

/-- The byte at `BYTE_IDX` of a phase: in `LED` pixel `BYTE_IDX div 4`, raw offset `BYTE_IDX mod 4`; zero in the start and
end frames (R21, R48, R50). -/
def Device.streamByte (d : Device) (ph : Phase) (i : Nat) : Byte :=
  match ph with
  | .led => ((d.pix[i / 4]?).bind fun p => p.rawBytes[i % 4]?).getD 0
  | .start => 0
  | .endFrame => 0
  | .idle => 0

/-- `IDLE -> START -> LED -> END -> IDLE` within one flush, which ends at `IDLE` (R21). -/
def Phase.next : Phase → Phase
  | .start => .led
  | .led => .endFrame
  | .endFrame => .idle
  | .idle => .idle

/-- The first bit of a phase. -/
def Seq.enter (ph : Phase) : Seq := { phase := ph, byteIdx := 0, bitIdx := 7 }

/-- One tick: the bit at the sequencer's place is sent and the place moves on; a phase with no byte (LED where `N = 0`) is
passed without sending. -/
def Device.seqTick (d : Device) (q : Seq) : List Bool × Seq :=
  if q.byteIdx < d.sectionLen q.phase then
    ([(d.streamByte q.phase q.byteIdx).getLsbD q.bitIdx],
      if 0 < q.bitIdx then { q with bitIdx := q.bitIdx - 1 }
      else if q.byteIdx + 1 < d.sectionLen q.phase then { q with byteIdx := q.byteIdx + 1, bitIdx := 7 }
      else Seq.enter q.phase.next)
  else ([], Seq.enter q.phase.next)

/-- A number of ticks: the bits sent, in order, and where the sequencer then is. -/
def Device.seqRun (d : Device) : Nat → Seq → List Bool × Seq
  | 0, q => ([], q)
  | k + 1, q => ((d.seqTick q).1 ++ (d.seqRun k (d.seqTick q).2).1, (d.seqRun k (d.seqTick q).2).2)

end Sys2Proof.Machine
end

