-- ==== Sys2Proof/Safety.lean ====
section
/-!
DEFINITION. The terms claims are stated in: the invariant of the machine, the premises under which an operation reaches the
transport, and what a transport looks like after a byte sequence.
-/

namespace Sys2Proof.Machine

/-! ### The invariant -/

/-- The marker bits of the header are set (10_state.md R15). -/
def Pixel.marked (p : Pixel) : Bool := hasMarker p.hdr

/-- A device the rules can leave between commands: the buffer has `N` marked records (R15, R16), `END_LEN` is the formula of
`N` (R19), `N <= N_MAX` (R7), and the sequencer is idle (R21). -/
structure Device.WellFormed (d : Device) : Prop where
  length_pix : d.pix.length = d.n
  n_le : d.n ≤ Config.nMax
  endLen_eq : d.endLen = endLenOf d.n
  marked : ∀ p ∈ d.pix, p.marked = true
  seq_idle : d.seq = Seq.idle

/-- A write call that has been recorded returned, and a failed one sent at most its bytes (R78). -/
def WriteRec.wf (r : WriteRec) : Bool :=
  match r.outcome with
  | .ok => true
  | .fail j => decide (j ≤ r.bytes.length)
  | .blocked => false

/-- What the recorded calls put on the wire, in order (R24, R44). -/
def sentOf (writes : List WriteRec) : List Byte := writes.flatMap fun r => sentBytes r.bytes r.outcome

/-- `WIRE` is the concatenation of the bytes the recorded calls sent (R24). -/
structure History.WellFormed (h : History) : Prop where
  wire_eq : h.wire = sentOf h.writes
  writes_wf : ∀ r ∈ h.writes, r.wf = true

/-- The level the data line is left at by the bits of a byte sequence, low before the first one (R27, D14). -/
def lastLevel (bytes : List Byte) : Bool := (bitsOf bytes).getLastD false

/-- The pins tell the same story as the wire: on the GPIO variant `PINLOG` is the bits of `WIRE` (R51, R77), the clock is left
low and the data line at the last bit while the handles are held (R27), and after the release the two release operations
follow and nothing else (R81); the SPI variant logs no pin operation (R79). -/
def Transport.Agrees (tx : Transport) (h : History) : Prop :=
  match tx with
  | .gpio g =>
    (g.data = .held (lastLevel h.wire) ∧ g.clk = .held false ∧ h.pinlog = pinOpsOf h.wire) ∨
      (g.data = .released ∧ g.clk = .released ∧ h.pinlog = pinOpsOf h.wire ++ [.releaseData, .releaseClk])
  | .spi p => p.isOpen = true ∧ h.pinlog = []

/-- The invariant of a live block: it is well formed, its pins agree with its wire, and it does not report a failed
construction (R22: that code is seen only when no controller exists). -/
structure State.LiveInv (s : State) (d : Device) : Prop where
  dev_wf : d.WellFormed
  agrees : d.tx.Agrees s.hist
  status_ne : s.status ≠ .construction

/-- The machine's invariant: the history is well formed, and so is the block where one exists. -/
structure State.Inv (s : State) : Prop where
  hist_wf : s.hist.WellFormed
  live : ∀ d, s.dev = some d → s.LiveInv d

/-! ### Premises on the transport -/

/-- `d` is the block, its sequencer is idle, and its transport's handles are held. -/
structure State.Holds (s : State) (d : Device) : Prop where
  dev_eq : s.dev = some d
  seq_idle : d.seq = Seq.idle
  usable : d.tx.usable = true

/-- `d` is the block, holds its transport, and has not been torn down (R20). -/
structure State.Ready (s : State) (d : Device) : Prop extends s.Holds d where
  rel_eq : d.rel = false

/-- The next `k` write calls return `Ok`: the GPIO variant's cannot fail, or the environment's script says so. A claim that
rests on `TRANSPORT_LIVE` names it (D24): the first case does. -/
def State.WritesOk (s : State) (d : Device) (k : Nat) : Prop :=
  (s.params.transportLive = true ∧ d.tx.writeCannotFail s.params = true) ∨
    ∀ i < k, s.env.writeScript[s.env.writeTick + i]? = some .ok

/-- On a transport whose writes can fail, the environment fails write call number `m` from now with `j` bytes sent at most,
and answers `Ok` to the calls before it. -/
structure State.WriteFailsAt (s : State) (d : Device) (m j : Nat) : Prop where
  can_fail : d.tx.writeCannotFail s.params = false
  before : ∀ i < m, s.env.writeScript[s.env.writeTick + i]? = some .ok
  fails : s.env.writeScript[s.env.writeTick + m]? = some (.fail j)

/-! ### What sending leaves -/

/-- The pin operations that sending bytes takes: none of the block's on the SPI variant (R79). -/
def Transport.pinOpsFor (tx : Transport) (bytes : List Byte) : List PinOp :=
  match tx with
  | .gpio _ => pinOpsOf bytes
  | .spi _ => []

/-- The transport after bytes were sent (R77). -/
def Transport.after (tx : Transport) (bytes : List Byte) : Transport :=
  match tx with
  | .gpio g => .gpio (g.actAll (pinOpsOf bytes))
  | .spi p => .spi p

/-- The history after write calls were made. -/
def History.after (h : History) (tx : Transport) (calls : List WriteRec) : History :=
  { writes := h.writes ++ calls
    wire := h.wire ++ sentOf calls
    pinlog := h.pinlog ++ tx.pinOpsFor (sentOf calls) }

/-- The block `d` of `s` after write calls were made: only the transport, the history and the tick of the environment are
touched. -/
def State.afterCalls (s : State) (d : Device) (calls : List WriteRec) : State :=
  { s with
    dev := some { d with tx := d.tx.after (sentOf calls) }
    hist := s.hist.after d.tx calls
    env := { s.env with writeTick := s.env.writeTick + calls.length } }

/-- Calls that all returned `Ok`. -/
def okCalls (seqs : List (List Byte)) : List WriteRec := seqs.map fun bs => { bytes := bs, outcome := .ok }

/-- The byte sequences of a flush's three write calls (R92, R93). -/
def Device.flushCalls (d : Device) : List (List Byte) := [zeros 4, d.ledBytes, zeros d.endLen]

/-- The calls of a list of sequences of which number `m` failed with `j` bytes sent at most, up to and with that one (R95). -/
def failedCalls (seqs : List (List Byte)) (m j : Nat) : List WriteRec :=
  okCalls (seqs.take m) ++
    ((seqs.drop m).take 1).map fun bs => { bytes := bs, outcome := .fail (min j bs.length) }

/-- The device with every colour byte zero (R89). -/
def Device.cleared (d : Device) : Device :=
  { d with pix := d.pix.map fun p => { hdr := p.hdr, blue := 0, green := 0, red := 0 } }

/-- `TOTAL`, the length of one whole frame (20_memory.md R39). -/
def totalLen (n : Nat) : Nat := 8 + 4 * n + (n + 15) / 16

/-- The transport after its teardown (R81, R82). -/
def Transport.tornDown : Transport → Transport
  | .gpio g => .gpio { g with data := .released, clk := .released }
  | .spi p => .spi p

/-- The pin operations of a teardown, data then clock (R81); none on the SPI variant (R82). -/
def Transport.releaseOps : Transport → List PinOp
  | .gpio _ => [.releaseData, .releaseClk]
  | .spi _ => []

/-- The block `d` of `s` released: the teardown's last two steps, `TX.TEARDOWN` and `REL <- 1` (R97). -/
def State.released (s : State) (d : Device) : State :=
  { s with
    dev := some { d with rel := true, tx := d.tx.tornDown }
    hist := { s.hist with pinlog := s.hist.pinlog ++ d.tx.releaseOps } }

/-- The block `d` of `s` cleared, its frame sent by the calls given, and released (R97). -/
def State.clearedSentReleased (s : State) (d : Device) (calls : List WriteRec) : State :=
  (s.afterCalls d.cleared calls).released { d.cleared with tx := d.tx.after (sentOf calls) }

/-- The configuration a transport was constructed with (R25). -/
def Transport.config : Transport → TransportChoice
  | .gpio g => .gpioBitbang g.pinData g.pinClk
  | .spi p => .hardwareSpi p.bus p.cs p.hz p.mode

/-! ### Operations in sequence -/

/-- The second operation on the state the first one answers. -/
def andThen (o : Host.Outcome State Fault Refusal) (f : State → Host.Outcome State Fault Refusal) :
    Host.Outcome State Fault Refusal :=
  match o with
  | .next t => f t
  | .fault e => .fault e
  | .refused r => .refused r

/-- Operations one after the other (R42). -/
def execAll : List Instr → State → Host.Outcome State Fault Refusal
  | [], s => .next s
  | i :: rest, s => andThen (exec i s) (execAll rest)

/-- The frames a flush of the block is made of, in order (R47). -/
def Device.frames (d : Device) : List Instr :=
  .startFrame :: (d.pix.map fun p => Instr.ledFrame p.field p.blue p.green p.red) ++ [.endFrame]

/-- The eight commands that change the buffer or the flag and do no I/O (R83 to R90). -/
def isInMemory (i : Instr) : Bool :=
  i.isCommand && !([Instr.flush, .showFrame, .teardown, .drop].contains i)

/-- The commands that can report a failure (60_exceptions.md R102). -/
def canReportFailure (i : Instr) : Bool := [Instr.flush, .showFrame, .teardown].contains i

/-! ### The value of a brightness operand as one number -/

/-- The value of a pattern in units of `2^-149`, an infinity above every finite value; a NaN has none (R57). -/
def f32Key (w : F32) : Option Int :=
  match f32Value w with
  | .nan => none
  | .infinite neg => some (if neg then -(2 ^ 254 * 2 ^ 23) else 2 ^ 254 * 2 ^ 23)
  | .finite neg mag => some (if neg then -(mag : Int) else mag)

end Sys2Proof.Machine
end

