-- ==== Sys2Proof/Certificates/Slice0/Obligations.lean ====
section
/-!
DEFINITION. The statements for the provers, from the spec's numbered rules. Explicit records stand on the right-hand sides, so
that a statement does not repeat the model's own function for the effect it states.
-/

open Sys2Proof Sys2Proof.Machine

/-! ### Encoding -/

/-- Words written out from the encoding table (R53 to R56), taken from the examples of R83 to R90 and R97, R98. -/
def Obligations.DecodesTheExampleWords : Prop :=
  decodeCmd 0x010002AABBCC00000000 = .ok (.setPixel 2 0xAA 0xBB 0xCC) ∧
  decodeCmd 0x020000AABBCC3F800000 = .ok (.setPixelRgbb 0 0xAA 0xBB 0xCC 0x3F800000) ∧
  decodeCmd 0x0300070000003F000000 = .ok (.setPixelBrightness 7 0x3F000000) ∧
  decodeCmd 0x040000FF000000000000 = .ok (.setAllPixels 0xFF 0 0) ∧
  decodeCmd 0x0500000102033E800000 = .ok (.setAllPixelsRgbb 1 2 3 0x3E800000) ∧
  decodeCmd 0x0600000000003DCCCCCD = .ok (.setAllPixelsBrightness 0x3DCCCCCD) ∧
  decodeCmd 0x07000000000000000000 = .ok .clear ∧
  decodeCmd 0x08000000000000000000 = .ok .flush ∧
  decodeCmd 0x09000001000000000000 = .ok (.setClearOnTeardown true) ∧
  decodeCmd 0x09000000000000000000 = .ok (.setClearOnTeardown false) ∧
  decodeCmd 0x0A000000000000000000 = .ok .teardown ∧
  decodeCmd 0x0B000000000000000000 = .ok .drop

/-- Decoding an encoded command gives it back, with every operand at every value; `SHOW` comes back as `FLUSH`, whose word it
has (R53 to R56, R92). -/
def Obligations.DecodeOfEncodeIsTheCommand : Prop :=
  ∀ (i : Instr) (w : CmdWord), encodeCmd i = some w →
    decodeCmd w = .ok (if i = .showFrame then .flush else i)

/-- R54, R55, R56: every word is its six fields, the code selects the command, and the result does not depend on a field the
command does not use; of the flag operand only `r[0]` is read. The numbers and the ignoring of unused fields are the spec's own decisions D2 and D9. -/
def Obligations.DecodeReadsOnlyTheUsedFields : Prop :=
  (∀ w : CmdWord, w = cmdWord (cmdOp w) (cmdIdx w) (cmdR w) (cmdG w) (cmdB w) (cmdBr w)) ∧
  ∀ (idx : Index) (r g b : Byte) (br : F32),
    decodeCmd (cmdWord 0x01 idx r g b br) = .ok (.setPixel idx r g b) ∧
    decodeCmd (cmdWord 0x02 idx r g b br) = .ok (.setPixelRgbb idx r g b br) ∧
    decodeCmd (cmdWord 0x03 idx r g b br) = .ok (.setPixelBrightness idx br) ∧
    decodeCmd (cmdWord 0x04 idx r g b br) = .ok (.setAllPixels r g b) ∧
    decodeCmd (cmdWord 0x05 idx r g b br) = .ok (.setAllPixelsRgbb r g b br) ∧
    decodeCmd (cmdWord 0x06 idx r g b br) = .ok (.setAllPixelsBrightness br) ∧
    decodeCmd (cmdWord 0x07 idx r g b br) = .ok .clear ∧
    decodeCmd (cmdWord 0x08 idx r g b br) = .ok .flush ∧
    decodeCmd (cmdWord 0x09 idx r g b br) = .ok (.setClearOnTeardown (r.getLsbD 0)) ∧
    decodeCmd (cmdWord 0x0A idx r g b br) = .ok .teardown ∧
    decodeCmd (cmdWord 0x0B idx r g b br) = .ok .drop

/-- R63: the reserved codes, and no other, select no operation; a step that is presented one refuses it by name (the spec's own decision D8
and its treatment U1; the name is the model's, log 18). -/
def Obligations.ReservedCodesAreRefused : Prop :=
  (∀ w : CmdWord, (cmdOp w = 0x00 ∨ 0x0C ≤ (cmdOp w).toNat) ↔ decodeCmd w = .error (.reservedCode (cmdOp w))) ∧
  ∀ (s : State) (w : CmdWord) (rest : List Request), s.host = .command w :: rest → s.cmdReady = true →
    (cmdOp w = 0x00 ∨ 0x0C ≤ (cmdOp w).toNat) → step s = .refused (.reservedCode (cmdOp w))

/-- R47 to R50: the bytes of each frame are read back as that frame, every field of an LED frame at every value; what the decoder reads
as a frame is that frame's bytes, so there are three formats and no others; and a step of a block presented bytes that are none of
them refuses by name (log 18). Where `END_LEN` is 4 the end frame's bytes are a start frame's (R39; log 19), so the end frame is left
out of the first part there. -/
def Obligations.FrameDecodeOfEncodeIsTheFrame : Prop :=
  (∀ (endLen : Nat) (i : Instr) (bytes : List Byte), encodeFrame endLen i = some bytes →
    (i = .endFrame → endLen ≠ 4) → decodeFrame endLen bytes = .ok i) ∧
  (∀ (endLen : Nat) (i : Instr) (bytes : List Byte), decodeFrame endLen bytes = .ok i → encodeFrame endLen i = some bytes) ∧
  ∀ (s : State) (d : Device) (bytes : List Byte) (rest : List Request), s.host = .frame bytes :: rest → s.dev = some d →
    (∀ i : Instr, encodeFrame d.endLen i ≠ some bytes) → step s = .refused .notAFrame

/-- R17, R34, R49: the raw bytes of a marked record are the LED frame with its fields, and sent most significant bit first they
are its 32-bit word from bit 31 down to bit 0. -/
def Obligations.LedFrameIsThePixelWord : Prop :=
  ∀ p : Pixel, p.marked = true →
    (∀ endLen, encodeFrame endLen (.ledFrame p.field p.blue p.green p.red) = some p.rawBytes) ∧
    bitsOf p.rawBytes = (List.range 32).map fun i => p.word.getLsbD (31 - i)

/-! ### The brightness conversion -/

/-- R59: `enc5` is the number of thresholds not above the pattern, on every one of the `2^32` patterns (the spec's own decisions D5, D6
and its own derivation; log 14). -/
def Obligations.Enc5EqualsItsThresholdForm : Prop := ∀ w : F32, enc5 w = enc5ByThresholds w

/-- R61, all four laws: (a) `enc5(dec5(k)) = k`; (b) for `x` in `[0, 1]` the decoded value is within `1/31` of `x` and the
stored byte is marked; (c) the clamping examples; (d) `enc5` is monotone on operands that are numbers. Values are in units of
`2^-149`, where 1.0 is `2^149`. (a) and (d) are the spec's own derivations from R58 to R60. -/
def Obligations.BrightnessPairLaws : Prop :=
  (∀ k : Field, enc5 (dec5 k) = k) ∧
  (∀ (w : F32) (x : Int), f32Key w = some x → 0 ≤ x → x ≤ 2 ^ 149 →
    hasMarker (brightnessHdr w) = true ∧
    ∃ y : Int, f32Key (dec5 (enc5 w)) = some y ∧ 31 * (y - x) ≤ 2 ^ 149 ∧ 31 * (x - y) ≤ 2 ^ 149) ∧
  (enc5 0xBF800000 = enc5 0x00000000 ∧ enc5 0x40000000 = enc5 0x3F800000) ∧
  ∀ (v w : F32) (x y : Int), f32Key v = some x → f32Key w = some y → x ≤ y → (enc5 v).toNat ≤ (enc5 w).toNat

/-- R58 outside the unit interval: an operand at or below 0 gives field 0, one at or above 1.0 gives 31, a NaN gives 0 (the spec's
own decision D6). -/
def Obligations.Enc5ClampsAndMapsNanToZero : Prop :=
  (∀ (w : F32) (x : Int), f32Key w = some x → (x ≤ 0 → enc5 w = 0) ∧ (2 ^ 149 ≤ x → enc5 w = 31)) ∧
  ∀ w : F32, f32Key w = none → enc5 w = 0

/-- R60: `dec5(k)` is the binary32 value nearest to `k / 31`, no other value is as near (no tie occurs), it is 0 for `k = 0` and the
threshold of R59 otherwise, and the marker bits do not enter (the spec's own decision D7). -/
def Obligations.Dec5IsTheNearestBinary32 : Prop :=
  (∀ k : Field, ∃ y : Int, f32Key (dec5 k) = some y ∧
    ∀ (w : F32) (x : Int), f32Key w = some x → x ≠ y →
      |31 * y - (k.toNat : Int) * 2 ^ 149| < |31 * x - (k.toNat : Int) * 2 ^ 149|) ∧
  dec5 0 = 0x00000000 ∧
  (∀ k : Field, k ≠ 0 → thresholds[k.toNat - 1]? = some (dec5 k)) ∧
  ∀ p q : Pixel, p.hdr.extractLsb' 0 5 = q.hdr.extractLsb' 0 5 → p.brightness = q.brightness

/-! ### Pixel operations -/

/-- R67, R68, R69, R73: each Pixel write on an existing record answers a next state in which that record has exactly the bytes the
rule gives, every other record and everything else is as before, and nothing is returned. The index operand and the register of returned values
are the model's (log 10, log 8). -/
def Obligations.PixelWritesChangeTheirBytes : Prop :=
  ∀ (s : State) (d : Device) (i : Index) (r g b : Byte) (x : F32), s.dev = some d → i.toNat < d.n →
    let wrote (f : Pixel → Pixel) : State :=
      { s with
        dev := some { d with pix := d.pix.mapIdx fun j p => if j = i.toNat then f p else p }
        ret := .none }
    exec (.pxSetRgb i r g b) s = .next (wrote fun p => { hdr := p.hdr, blue := b, green := g, red := r }) ∧
    exec (.pxSetBrightness i x) s =
      .next (wrote fun p => { hdr := 0b111#3 ++ enc5 x, blue := p.blue, green := p.green, red := p.red }) ∧
    exec (.pxSetRgbb i r g b x) s =
      .next (wrote fun _ => { hdr := 0b111#3 ++ enc5 x, blue := b, green := g, red := r }) ∧
    exec (.pxClear i) s = .next (wrote fun p => { hdr := p.hdr, blue := 0, green := 0, red := 0 })

/-- R70, R71, R72, R74: each getter of an existing record answers a next state in which only the returned value is new. The index operand and
the register of returned values are the model's (log 10, log 8). -/
def Obligations.PixelGettersReturnTheirValues : Prop :=
  ∀ (s : State) (d : Device) (i : Index) (p : Pixel), s.dev = some d → i.toNat < d.n →
    d.pix[i.toNat]? = some p →
    exec (.pxRgb i) s = .next { s with ret := .rgb p.red p.green p.blue } ∧
    exec (.pxBrightness i) s = .next { s with ret := .brightness (dec5 (p.hdr.extractLsb' 0 5)) } ∧
    exec (.pxRgbb i) s = .next { s with ret := .rgbb p.red p.green p.blue (dec5 (p.hdr.extractLsb' 0 5)) } ∧
    exec (.pxRawBytes i) s = .next { s with ret := .bytes [p.hdr, p.blue, p.green, p.red] }

/-- The model's choice (log 10): on an index that selects no record a Pixel operation changes nothing and returns nothing. -/
def Obligations.PixelOperationsOnNoRecordDoNothing : Prop :=
  ∀ (s : State) (d : Device) (i : Index) (r g b : Byte) (x : F32), s.dev = some d → d.n ≤ i.toNat →
    ∀ o ∈ [Instr.pxSetRgb i r g b, .pxSetBrightness i x, .pxSetRgbb i r g b x, .pxClear i, .pxRgb i, .pxBrightness i,
      .pxRgbb i, .pxRawBytes i], exec o s = .next { s with ret := .none }

/-- R75: the default record, in every state; its decoded brightness, and that setting that brightness stores the same byte. The register of
returned values is the model's (log 8). -/
def Obligations.PixelDefaultIsTheDimHeader : Prop :=
  (∀ s : State, exec .pxDefault s =
    .next { s with ret := .pixel { hdr := 0xE7, blue := 0x00, green := 0x00, red := 0x00 } }) ∧
  Pixel.default.brightness = 0x3E6739CE ∧ brightnessHdr 0x3E6739CE = 0xE7

/-! ### In-memory commands -/

/-- R83, with R32: the three colour bytes of `PIX[idx]` if `idx < N`, nothing otherwise, `STATUS <- 0` either way; the word with
code `0x01`, whatever its brightness field, is this command. -/
def Obligations.SetPixelWritesOneColour : Prop :=
  ∀ (s : State) (d : Device) (idx : Index) (r g b : Byte) (br : F32), s.dev = some d → d.pix.length = d.n →
    decodeCmd (cmdWord 0x01 idx r g b br) = .ok (.setPixel idx r g b) ∧
    exec (.setPixel idx r g b) s = .next
      { s with
        dev := some { d with pix := d.pix.mapIdx fun j p =>
          if j = idx.toNat then { hdr := p.hdr, blue := b, green := g, red := r } else p }
        status := .ok
        done := true }

/-- R84: all four bytes of `PIX[idx]` if `idx < N`, nothing otherwise, `STATUS <- 0` either way; its code is `0x02`. -/
def Obligations.SetPixelRgbbWritesOneRecord : Prop :=
  ∀ (s : State) (d : Device) (idx : Index) (r g b : Byte) (br : F32), s.dev = some d → d.pix.length = d.n →
    decodeCmd (cmdWord 0x02 idx r g b br) = .ok (.setPixelRgbb idx r g b br) ∧
    exec (.setPixelRgbb idx r g b br) s = .next
      { s with
        dev := some { d with pix := d.pix.mapIdx fun j p =>
          if j = idx.toNat then { hdr := 0b111#3 ++ enc5 br, blue := b, green := g, red := r } else p }
        status := .ok
        done := true }

/-- R85: the header of `PIX[idx]` if `idx < N`, nothing otherwise, `STATUS <- 0` either way; the word with code `0x03`, whatever its
colour fields, is this command. -/
def Obligations.SetPixelBrightnessWritesOneHeader : Prop :=
  ∀ (s : State) (d : Device) (idx : Index) (r g b : Byte) (br : F32), s.dev = some d → d.pix.length = d.n →
    decodeCmd (cmdWord 0x03 idx r g b br) = .ok (.setPixelBrightness idx br) ∧
    exec (.setPixelBrightness idx br) s = .next
      { s with
        dev := some { d with pix := d.pix.mapIdx fun j p =>
          if j = idx.toNat then { hdr := 0b111#3 ++ enc5 br, blue := p.blue, green := p.green, red := p.red } else p }
        status := .ok
        done := true }

/-- R86 to R89: the bulk commands act on every record alike and complete with `STATUS <- 0`; their codes are `0x04` to `0x07`, and the
fields they do not use are ignored. -/
def Obligations.BulkSettersWriteEveryRecord : Prop :=
  ∀ (s : State) (d : Device) (idx : Index) (r g b : Byte) (br : F32), s.dev = some d →
    let wrote (f : Pixel → Pixel) : State :=
      { s with dev := some { d with pix := d.pix.map f }, status := .ok, done := true }
    (decodeCmd (cmdWord 0x04 idx r g b br) = .ok (.setAllPixels r g b) ∧
      decodeCmd (cmdWord 0x05 idx r g b br) = .ok (.setAllPixelsRgbb r g b br) ∧
      decodeCmd (cmdWord 0x06 idx r g b br) = .ok (.setAllPixelsBrightness br) ∧
      decodeCmd (cmdWord 0x07 idx r g b br) = .ok .clear) ∧
    exec (.setAllPixels r g b) s = .next (wrote fun p => { hdr := p.hdr, blue := b, green := g, red := r }) ∧
    exec (.setAllPixelsRgbb r g b br) s =
      .next (wrote fun _ => { hdr := 0b111#3 ++ enc5 br, blue := b, green := g, red := r }) ∧
    exec (.setAllPixelsBrightness br) s =
      .next (wrote fun p => { hdr := 0b111#3 ++ enc5 br, blue := p.blue, green := p.green, red := p.red }) ∧
    exec .clear s = .next (wrote fun p => { hdr := p.hdr, blue := 0, green := 0, red := 0 })

/-- R90, R56: `COT <- cmd[48]`, `STATUS <- 0`, and nothing else, on every word with code `0x09`. -/
def Obligations.SetClearOnTeardownWritesTheFlag : Prop :=
  ∀ (s : State) (d : Device) (w : CmdWord), s.dev = some d → cmdOp w = 0x09 →
    decodeCmd w = .ok (.setClearOnTeardown (w.getLsbD 48)) ∧
    ∀ flag : Bool, exec (.setClearOnTeardown flag) s =
      .next { s with dev := some { d with cot := flag }, status := .ok, done := true }

/-- R91: none of the eight in-memory commands touches the transport, the history, `END_LEN`, `REL` or `N`; none can fail; each
keeps every header marked; and all of this holds after `TEARDOWN` as before (the spec's own decision D17). -/
def Obligations.InMemoryCommandsFrame : Prop :=
  ∀ (s : State) (d : Device) (i : Instr), isInMemory i = true → s.dev = some d →
    ∃ d' : Device,
      exec i s = .next { s with dev := some d', status := .ok, done := true } ∧
      d'.tx = d.tx ∧ d'.endLen = d.endLen ∧ d'.rel = d.rel ∧ d'.n = d.n ∧ d'.seq = d.seq ∧
      d'.pix.length = d.pix.length ∧
      ((∀ p ∈ d.pix, p.marked = true) → ∀ p ∈ d'.pix, p.marked = true)

/-- R37, the column of bytes left untouched, through the byte view of the buffer: whatever an operation that writes the buffer
answers, every byte outside those its row names reads as before. A record's bytes are `4*i` (header) and `4*i + 1` to `4*i + 3`
(colours). -/
def Obligations.BufferWritesLeaveOtherBytes : Prop :=
  ∀ (s t : State) (idx : Index) (r g b : Byte) (x : F32) (a : Nat),
    ((∃ i ∈ [Instr.setPixel idx r g b, .pxSetRgb idx r g b, .pxClear idx], exec i s = .next t) →
      (a / 4 ≠ idx.toNat ∨ a % 4 = 0) → t.rawByte a = s.rawByte a) ∧
    ((∃ i ∈ [Instr.setPixelBrightness idx x, .pxSetBrightness idx x], exec i s = .next t) →
      (a / 4 ≠ idx.toNat ∨ a % 4 ≠ 0) → t.rawByte a = s.rawByte a) ∧
    ((∃ i ∈ [Instr.setPixelRgbb idx r g b x, .pxSetRgbb idx r g b x], exec i s = .next t) →
      a / 4 ≠ idx.toNat → t.rawByte a = s.rawByte a) ∧
    ((∃ i ∈ [Instr.setAllPixels r g b, .clear], exec i s = .next t) → a % 4 = 0 → t.rawByte a = s.rawByte a) ∧
    (exec (.setAllPixelsBrightness x) s = .next t → a % 4 ≠ 0 → t.rawByte a = s.rawByte a)

/-- R37, R38: the operations that write no record leave every byte of the buffer as it was. -/
def Obligations.OtherOperationsLeaveTheBuffer : Prop :=
  ∀ (s t : State) (i : Instr) (a : Nat),
    (match i with
      | .flush | .showFrame | .setClearOnTeardown _ | .startFrame | .ledFrame _ _ _ _ | .endFrame | .pxRgb _
      | .pxBrightness _ | .pxRgbb _ | .pxRawBytes _ | .pxDefault | .txWrite _ | .txWriteGpio _ | .txWriteSpi _
      | .txTeardownGpio | .txTeardownSpi => True
      | _ => False) →
    exec i s = .next t → t.rawByte a = s.rawByte a

/-- R38: every in-memory command is idempotent: given twice it leaves the state it leaves given once. -/
def Obligations.InMemoryCommandsAreIdempotent : Prop :=
  ∀ (s t : State) (i : Instr), isInMemory i = true → exec i s = .next t → exec i t = .next t

/-- R66: each composed operation agrees with its expansion. The bulk setters agree with the per-pixel ones in ascending order
(on `N = 0` the expansion is empty, so the two are compared where `N > 0`), and `TEARDOWN` with `COT = 1`, `REL = 0` with
`CLEAR`, `FLUSH`, `TX.TEARDOWN`, `REL <- 1`, the flush's result kept. -/
def Obligations.ComposedOperationsAgree : Prop :=
  (∀ (s : State) (i : Index) (r g b : Byte) (x : F32),
    exec (.pxSetRgbb i r g b x) s = execAll [.pxSetRgb i r g b, .pxSetBrightness i x] s ∧
    exec (.pxClear i) s = exec (.pxSetRgb i 0 0 0) s ∧
    exec .clear s = exec (.setAllPixels 0 0 0) s ∧
    exec .showFrame s = exec .flush s ∧
    exec (.setPixelRgbb i r g b x) s = execAll [.setPixel i r g b, .setPixelBrightness i x] s) ∧
  (∀ (s : State) (d : Device) (r g b : Byte) (x : F32), s.dev = some d → d.pix.length = d.n → d.n ≤ Config.nMax →
    0 < d.n →
    exec (.setAllPixels r g b) s =
      execAll ((List.range d.n).map fun j => .setPixel (BitVec.ofNat 16 j) r g b) s ∧
    exec (.setAllPixelsRgbb r g b x) s =
      execAll ((List.range d.n).map fun j => .setPixelRgbb (BitVec.ofNat 16 j) r g b x) s ∧
    exec (.setAllPixelsBrightness x) s =
      execAll ((List.range d.n).map fun j => .setPixelBrightness (BitVec.ofNat 16 j) x) s) ∧
  ∀ (s : State) (d : Device), s.dev = some d → d.cot = true → d.rel = false →
    exec .teardown s =
      andThen (execAll [.clear, .flush] s) fun u =>
        andThen (exec (match d.tx with | .gpio _ => .txTeardownGpio | .spi _ => .txTeardownSpi) u) fun v =>
          .next { v with dev := v.dev.map fun d' => { d' with rel := true }, ret := s.ret }

/-! ### Flush -/

/-- R93: `FLUSH`, and `SHOW`, whose write calls return `Ok`: exactly three calls, the start frame of 4 zero bytes, all LED frames
together in index order, the end frame of `END_LEN` zero bytes; `STATUS <- 0`, and nothing else changes. -/
def Obligations.FlushMakesThreeWriteCalls : Prop :=
  ∀ (s : State) (d : Device), s.Ready d → s.WritesOk d 3 →
    ∀ i ∈ [Instr.flush, .showFrame], exec i s = .next
      { s.afterCalls d (okCalls [List.replicate 4 0, d.pix.flatMap fun p => [p.hdr, p.blue, p.green, p.red],
          List.replicate d.endLen 0]) with
        status := .ok
        done := true }

/-- R39: the layout of the bytes one successful `FLUSH` emits, their number, and which of the three calls sends which of them. -/
def Obligations.FlushStreamLayout : Prop :=
  ∀ (s : State) (d : Device), s.Ready d → d.WellFormed → s.WritesOk d 3 →
    ∃ (t : State) (frame : List Byte), exec .flush s = .next t ∧ t.hist.wire = s.hist.wire ++ frame ∧
      t.hist.writes = s.hist.writes ++
        okCalls [frame.take 4, (frame.drop 4).take (4 * d.n), frame.drop (4 + 4 * d.n)] ∧
      frame.length = 8 + 4 * d.n + (d.n + 15) / 16 ∧
      (∀ a < 4, frame[a]? = some 0) ∧
      (∀ i p, d.pix[i]? = some p →
        frame[4 + 4 * i]? = some p.hdr ∧ frame[4 + 4 * i + 1]? = some p.blue ∧
        frame[4 + 4 * i + 2]? = some p.green ∧ frame[4 + 4 * i + 3]? = some p.red) ∧
      ∀ a, 4 + 4 * d.n ≤ a → a < 8 + 4 * d.n + (d.n + 15) / 16 → frame[a]? = some 0

/-- R95, R105: a `FLUSH` whose call number `m` fails with `j` bytes sent stops there: the earlier calls' bytes and the failing call's
first `j` are on the wire, later calls are not made, `STATUS <- 1`, and the block is otherwise as before (the spec's own decision D10). -/
def Obligations.FlushStopsAtTheFirstFailure : Prop :=
  ∀ (s : State) (d : Device) (m j : Nat), s.Ready d → m < 3 → s.WriteFailsAt d m j →
    ∀ i ∈ [Instr.flush, .showFrame],
      exec i s = .next { s.afterCalls d (failedCalls d.flushCalls m j) with status := .hardware, done := true }

/-- R92, R102, R104, R105: where every write returns, a `FLUSH` of a ready block completes whatever the environment answers: its
calls are the first ones of the three, all `Ok` and `STATUS = 0`, or all but the last `Ok` and `STATUS = 1`. -/
def Obligations.FlushCompletesWhateverTheAnswers : Prop :=
  ∀ (s : State) (d : Device), s.Ready d → s.params.transportLive = true →
    exec .flush s = .next { s.afterCalls d (okCalls d.flushCalls) with status := .ok, done := true } ∨
    ∃ m j, m < 3 ∧
      exec .flush s = .next { s.afterCalls d (failedCalls d.flushCalls m j) with status := .hardware, done := true }

/-- R96: after the teardown a `FLUSH` makes no write call and changes nothing but the result: 0 or 1 as `POST_TEARDOWN_FLUSH` says (the
spec's own decision D16; log 7). -/
def Obligations.FlushAfterTeardownTouchesNothing : Prop :=
  ∀ (s : State) (d : Device), s.dev = some d → d.rel = true →
    ∀ i ∈ [Instr.flush, .showFrame],
      (s.params.postTeardownFlush = .noopOk → exec i s = .next { s with status := .ok, done := true }) ∧
      (s.params.postTeardownFlush = .fail → exec i s = .next { s with status := .hardware, done := true })

/-- R21: on a ready block whose write calls return `Ok`, `FLUSH` answers a next state, and the bytes its wire gained are, bit for bit and
most significant bit first, what the sequencer of the block sends when it is stepped bit by bit from the first bit of `START`, after
which it is at `IDLE`; on a block without pixels one tick passes the empty LED phase (the spec's own decision D3). -/
def Obligations.SequencerSendsTheFlushFrame : Prop :=
  ∀ (s : State) (d : Device), s.Ready d → d.WellFormed → s.WritesOk d 3 →
    ∃ (t : State) (gained : List Byte), exec .flush s = .next t ∧ t.hist.wire = s.hist.wire ++ gained ∧
      d.seqRun (8 * totalLen d.n + (if d.n = 0 then 1 else 0)) (Seq.enter .start) = (bitsOf gained, Seq.idle)

/-- R47: one `FLUSH` puts on the wire, and on the pins, what the start frame, the LED frames in index order and the end frame put
there one after the other. That the frames are operations is the model's choice (log 9). -/
def Obligations.FlushIsItsFramesInOrder : Prop :=
  ∀ (s : State) (d : Device), s.Ready d → d.WellFormed → s.WritesOk d (d.n + 3) →
    ∃ t u : State, exec .flush s = .next t ∧ execAll d.frames s = .next u ∧
      t.hist.wire = u.hist.wire ∧ t.hist.pinlog = u.hist.pinlog ∧ t.dev = u.dev

/-! ### Frames as operations -/

/-- R48, R49, R50, as operations (log 9): each frame is one write call with exactly the bytes of its format, and its result is what
is returned; after the teardown no call is made. -/
def Obligations.FramesAreOneWriteCall : Prop :=
  ∀ (s : State) (d : Device) (k : Field) (blue green red : Byte),
    (s.Ready d → s.WritesOk d 1 →
      exec .startFrame s =
        .next { s.afterCalls d (okCalls [List.replicate 4 0]) with ret := .result .ok } ∧
      exec (.ledFrame k blue green red) s =
        .next { s.afterCalls d (okCalls [[0b111#3 ++ k, blue, green, red]]) with ret := .result .ok } ∧
      exec .endFrame s =
        .next { s.afterCalls d (okCalls [List.replicate d.endLen 0]) with ret := .result .ok }) ∧
    (∀ j, s.Ready d → s.WriteFailsAt d 0 j →
      exec .startFrame s =
        .next { s.afterCalls d (failedCalls [List.replicate 4 0] 0 j) with ret := .result .hardware } ∧
      exec (.ledFrame k blue green red) s =
        .next { s.afterCalls d (failedCalls [[0b111#3 ++ k, blue, green, red]] 0 j) with ret := .result .hardware } ∧
      exec .endFrame s =
        .next { s.afterCalls d (failedCalls [List.replicate d.endLen 0] 0 j) with ret := .result .hardware }) ∧
    (s.dev = some d → d.rel = true → ∀ i ∈ [Instr.startFrame, .ledFrame k blue green red, .endFrame],
      exec i s = .next { s with
        ret := .result (match s.params.postTeardownFlush with | .noopOk => .ok | .fail => .hardware) })

/-! ### Transport -/

/-- R76, R80: `TX.WRITE` with an answer of the environment: `Ok` sends every byte; a failure sends the first `j` and returns the
error; either way it is one entry of `WRITES`, also where the sequence is empty, and no flag is written. The register of returned values is the model's (log 8). -/
def Obligations.TxWriteSendsWhatTheAnswerSays : Prop :=
  ∀ (s : State) (d : Device) (bytes : List Byte) (j : Nat), s.Holds d →
    (s.WritesOk d 1 →
      exec (.txWrite bytes) s =
        .next { s.afterCalls d [{ bytes := bytes, outcome := .ok }] with ret := .result .ok }) ∧
    (s.WriteFailsAt d 0 j →
      exec (.txWrite bytes) s =
        .next { s.afterCalls d [{ bytes := bytes, outcome := .fail (min j bytes.length) }] with
          ret := .result .hardware }) ∧
    (s.params.transportLive = true → ∃ (o : WriteOutcome) (st : Status),
      exec (.txWrite bytes) s = .next { s.afterCalls d [{ bytes := bytes, outcome := o }] with ret := .result st })

/-- R77, R78, R51: a GPIO write sends, per byte, bit 7 first, the three pin operations set data, raise clock, lower clock, 24 pin
operations per byte. Where it returns `Ok` it sends every byte, and where it fails, which it can only with `GPIO_WRITE_CAN_FAIL`, the
first `j` and no pin operation more; the clock is left low and the data line at the last bit sent. The register of returned values is
the model's (log 8). -/
def Obligations.GpioWriteBitBangs : Prop :=
  ∀ (s : State) (d : Device) (g : GpioPort) (bytes : List Byte) (j : Nat), s.Holds d → d.tx = .gpio g →
    let ops (sent : List Byte) : List PinOp := sent.flatMap fun B => [7, 6, 5, 4, 3, 2, 1, 0].flatMap fun i =>
      [.data (B.getLsbD i), .clkHigh, .clkLow]
    let after (sent : List Byte) (out : WriteOutcome) (res : Status) : State :=
      { s with
        dev := some { d with tx := .gpio { g with
          data := match sent.getLast? with | none => g.data | some B => .held (B.getLsbD 0)
          clk := if sent = [] then g.clk else .held false } }
        hist :=
          { writes := s.hist.writes ++ [{ bytes := bytes, outcome := out }]
            wire := s.hist.wire ++ sent
            pinlog := s.hist.pinlog ++ ops sent }
        env := { s.env with writeTick := s.env.writeTick + 1 }
        ret := .result res }
    (∀ sent, (ops sent).length = 24 * sent.length) ∧
    (s.WritesOk d 1 → exec (.txWriteGpio bytes) s = .next (after bytes .ok .ok)) ∧
    (s.WriteFailsAt d 0 j → s.params.gpioWriteCanFail = true ∧
      exec (.txWriteGpio bytes) s = .next (after (bytes.take j) (.fail (min j bytes.length)) .hardware))

/-- R79: an SPI write is one call with the whole sequence, whose result is returned; a failure is not retried, the pins are not
used, and the handle and its configuration stay. The register of returned values is the model's (log 8). -/
def Obligations.SpiWriteForwardsTheBuffer : Prop :=
  ∀ (s : State) (d : Device) (p : SpiPort) (bytes : List Byte) (j : Nat), s.Holds d → d.tx = .spi p →
    (s.WritesOk d 1 →
      exec (.txWriteSpi bytes) s = .next
        { s with
          hist := { s.hist with
            writes := s.hist.writes ++ [{ bytes := bytes, outcome := .ok }]
            wire := s.hist.wire ++ bytes }
          env := { s.env with writeTick := s.env.writeTick + 1 }
          ret := .result .ok }) ∧
    (s.WriteFailsAt d 0 j →
      exec (.txWriteSpi bytes) s = .next
        { s with
          hist := { s.hist with
            writes := s.hist.writes ++ [{ bytes := bytes, outcome := .fail (min j bytes.length) }]
            wire := s.hist.wire ++ bytes.take j }
          env := { s.env with writeTick := s.env.writeTick + 1 }
          ret := .result .hardware })

/-- R78: a model must admit every number of bytes a failed write may have sent: on a transport that can fail, for every `j` up to
the length some answer of the environment makes the call fail with exactly `j` bytes sent. -/
def Obligations.EveryFailureLengthIsAdmitted : Prop :=
  ∀ (s : State) (d : Device) (bytes : List Byte) (j : Nat), s.Holds d → d.tx.writeCannotFail s.params = false →
    j ≤ bytes.length →
    ∃ (e : Env) (t : State), e.writeTick = s.env.writeTick ∧ exec (.txWrite bytes) { s with env := e } = .next t ∧
      t.hist.writes = s.hist.writes ++ [{ bytes := bytes, outcome := .fail j }] ∧
      t.hist.wire = s.hist.wire ++ bytes.take j ∧ t.ret = .result .hardware

/-- R81, R82: the GPIO teardown releases the data pin, then the clock pin, and logs both; the SPI teardown does nothing; neither
writes a flag. The order is the spec's own decision D15; the register of returned values is the model's (log 8). -/
def Obligations.TxTeardownReleasesThePins : Prop :=
  ∀ (s : State) (d : Device), s.Holds d →
    (∀ g, d.tx = .gpio g →
      exec .txTeardownGpio s = .next
        { s with
          dev := some { d with tx := .gpio { g with data := .released, clk := .released } }
          hist := { s.hist with pinlog := s.hist.pinlog ++ [.releaseData, .releaseClk] }
          ret := .none }) ∧
    ∀ p, d.tx = .spi p → exec .txTeardownSpi s = .next { s with ret := .none }

/-- The model's stops at the transport (log 11): the row of the other variant has no call; on handles the block does not hold (R81,
R99) a write of either row and the GPIO teardown stop by name, and so does, while `REL` is 0, every operation that makes a write call
or releases pins: `FLUSH`, `SHOW`, the frames, and `TEARDOWN` and `DROP` where they flush or the pins are theirs to release. -/
def Obligations.TransportStopsByName : Prop :=
  ∀ (s : State) (d : Device) (bytes : List Byte) (k : Field) (blue green red : Byte), s.dev = some d →
    (∀ g, d.tx = .gpio g →
      exec (.txWriteSpi bytes) s = .refused .wrongVariant ∧ exec .txTeardownSpi s = .refused .wrongVariant) ∧
    (∀ p, d.tx = .spi p →
      exec (.txWriteGpio bytes) s = .refused .wrongVariant ∧ exec .txTeardownGpio s = .refused .wrongVariant) ∧
    (d.tx.usable = false →
      exec (.txWrite bytes) s = .fault .handleReleased ∧
      (∀ g, d.tx = .gpio g →
        exec (.txWriteGpio bytes) s = .fault .handleReleased ∧ exec .txTeardownGpio s = .fault .handleReleased) ∧
      (∀ p, d.tx = .spi p → exec (.txWriteSpi bytes) s = .fault .handleReleased) ∧
      (d.rel = false →
        (∀ i ∈ [Instr.flush, .showFrame, .startFrame, .ledFrame k blue green red, .endFrame],
          exec i s = .fault .handleReleased) ∧
        (d.cot = true ∨ (∃ g, d.tx = .gpio g) →
          exec .teardown s = .fault .handleReleased ∧ exec .drop s = .fault .handleReleased)))

/-- R125, U9: where `TRANSPORT_LIVE` is not assumed, a write call that never returns leaves the block stuck: no next state, in `FLUSH`
as in `TX.WRITE`; where it is assumed no operation ends so. That nothing is said of what such a command put on the wire is the model's
choice (log 20). -/
def Obligations.BlockedWriteIsStuck : Prop :=
  (∀ (s : State) (d : Device) (bytes : List Byte), s.Ready d → s.params.transportLive = false →
    s.env.writeScript[s.env.writeTick]? = some .blocked →
    exec (.txWrite bytes) s = .fault .writeBlocked ∧ exec .flush s = .fault .writeBlocked) ∧
  ∀ (s : State) (i : Instr), s.params.transportLive = true → exec i s ≠ .fault .writeBlocked

/-! ### Teardown and end of life -/

/-- R97, the four ways through `TEARDOWN`: already done; no clear and flush; the cleared buffer flushed; and a flush that fails, whose
result is reported (the spec's own decision D18) and which does not stop the release. -/
def Obligations.TeardownRunsThePolicy : Prop :=
  ∀ (s : State) (d : Device),
    (s.dev = some d → d.rel = true → exec .teardown s = .next { s with status := .ok, done := true }) ∧
    (s.Ready d → d.cot = false →
      exec .teardown s = .next { s.released d with status := .ok, done := true }) ∧
    (s.Ready d → d.cot = true → s.WritesOk d 3 →
      exec .teardown s = .next
        { s.clearedSentReleased d (okCalls d.cleared.flushCalls) with status := .ok, done := true }) ∧
    ∀ m j, s.Ready d → d.cot = true → m < 3 → s.WriteFailsAt d m j →
      exec .teardown s = .next
        { s.clearedSentReleased d (failedCalls d.cleared.flushCalls m j) with status := .hardware, done := true }

/-- R98: `DROP` does to the wire, the pins and the transport what `TEARDOWN` does; then the block does not exist, and nothing is
reported: `STATUS` keeps its old value and no pulse is given (log 15). -/
def Obligations.DropIsASilentTeardown : Prop :=
  ∀ s : State, exec .drop s =
    andThen (exec .teardown s) fun t => .next { t with dev := none, status := s.status, done := false }

/-- R108: a failing flush inside a teardown never prevents the release: where every write returns, `TEARDOWN` and `DROP` of a ready
block complete whatever the environment answers, the first with `REL = 1` and the transport torn down, the second with no block; the
pins' releases are the last pin operations. That the history is still there after `DROP` is the model's choice (log 15). -/
def Obligations.ReleaseIsUnconditional : Prop :=
  ∀ (s : State) (d : Device), s.Ready d → s.params.transportLive = true →
    ∃ (t u : State) (d' : Device) (ops : List PinOp),
      exec .teardown s = .next t ∧ t.dev = some d' ∧ d'.rel = true ∧
      (∃ bytes, d'.tx = (d.tx.after bytes).tornDown) ∧
      t.hist.pinlog = s.hist.pinlog ++ ops ++ d.tx.releaseOps ∧
      (t.status = .ok ∨ d.cot = true ∧ t.status = .hardware) ∧
      exec .drop s = .next u ∧ u.dev = none ∧ u.hist = t.hist

/-- R99, over every command: once `REL = 1` every command completes, none touches the history, the transport or the environment, and
`REL` is 1 for as long as the block exists. -/
def Obligations.TeardownRunsExactlyOnce : Prop :=
  ∀ (s : State) (d : Device) (i : Instr), i.isCommand = true → s.dev = some d → d.rel = true →
    ∃ t : State, exec i s = .next t ∧ t.hist = s.hist ∧ t.env = s.env ∧
      ∀ d', t.dev = some d' → d'.rel = true ∧ d'.tx = d.tx

/-! ### Construction and reset -/

/-- R115: a construction whose acquisitions succeed makes the fresh block, transmits nothing and starts an empty history, whatever
the state was before. No pulse of `done`, the returned value and the replacing of a live block are the model's (log 6, 8, 12), and so is
that `exec` answers for a pixel count above `N_MAX` or an SPI mode above 3, which a step refuses before it comes to `exec` (U14; log
18). -/
def Obligations.ConstructMakesAFreshBlock : Prop :=
  ∀ (s : State) (n : Nat),
    (∀ pd pc, s.env.acquireScript[s.env.acquireTick]? = some .ok →
      s.env.acquireScript[s.env.acquireTick + 1]? = some .ok →
      exec (.construct { pixelCount := n, transport := .gpioBitbang pd pc }) s = .next
        { s with
          dev := some
            { n := n
              pix := List.replicate n { hdr := 0xE7, blue := 0, green := 0, red := 0 }
              cot := true
              endLen := 4 + (n + 15) / 16
              rel := false
              seq := { phase := .idle, byteIdx := 0, bitIdx := 7 }
              tx := .gpio { pinData := pd, pinClk := pc, data := .held false, clk := .held false } }
          status := .ok
          done := false
          hist := { writes := [], wire := [], pinlog := [] }
          env := { s.env with acquireTick := s.env.acquireTick + 2 }
          ret := .result .ok }) ∧
    ∀ bus cs hz mode, s.env.acquireScript[s.env.acquireTick]? = some .ok →
      exec (.construct { pixelCount := n, transport := .hardwareSpi bus cs hz mode }) s = .next
        { s with
          dev := some
            { n := n
              pix := List.replicate n { hdr := 0xE7, blue := 0, green := 0, red := 0 }
              cot := true
              endLen := 4 + (n + 15) / 16
              rel := false
              seq := { phase := .idle, byteIdx := 0, bitIdx := 7 }
              tx := .spi { bus := bus, cs := cs, hz := hz, mode := mode, isOpen := true } }
          status := .ok
          done := false
          hist := { writes := [], wire := [], pinlog := [] }
          env := { s.env with acquireTick := s.env.acquireTick + 1 }
          ret := .result .ok }

/-- R116, R101: an acquisition that fails leaves no block and `STATUS` 2, nothing is transmitted, and a data pin already acquired is
released (the spec's own decision D21). No pulse of `done` (log 6), the returned value (log 8), and the history that is left and the
replacing of a live block (log 12) are the model's choice, and so is that `exec` answers for a pixel count above `N_MAX` or an SPI mode
above 3, which a step refuses before it comes to `exec` (U14; log 18). -/
def Obligations.FailedConstructionLeavesNoBlock : Prop :=
  ∀ (s : State) (n pd pc bus cs hz mode : Nat),
    let failed (k : Nat) (ops : List PinOp) : State :=
      { s with
        dev := none
        status := .construction
        done := false
        hist := { writes := [], wire := [], pinlog := ops }
        env := { s.env with acquireTick := s.env.acquireTick + k }
        ret := .result .construction }
    (s.env.acquireScript[s.env.acquireTick]? = some .fail →
      exec (.construct { pixelCount := n, transport := .gpioBitbang pd pc }) s = .next (failed 1 []) ∧
      exec (.construct { pixelCount := n, transport := .hardwareSpi bus cs hz mode }) s = .next (failed 1 [])) ∧
    (s.env.acquireScript[s.env.acquireTick]? = some .ok →
      s.env.acquireScript[s.env.acquireTick + 1]? = some .fail →
      exec (.construct { pixelCount := n, transport := .gpioBitbang pd pc }) s = .next (failed 2 [.releaseData]))

/-- R115, R116, U10: whatever the environment answers, `CONSTRUCT` answers a next state, with a block and `STATUS` 0 or with no block
and `STATUS` 2. That it does so on a live block too is the model's choice (log 12), and so is that `exec` answers for a configuration
above the limits, which a step refuses before it comes to `exec` (log 18). -/
def Obligations.ConstructAlwaysAnswers : Prop :=
  ∀ (s : State) (cfg : ConstructCfg), ∃ t : State, exec (.construct cfg) s = .next t ∧
    ((∃ d, t.dev = some d ∧ d.n = cfg.pixelCount ∧ t.status = .ok) ∨ (t.dev = none ∧ t.status = .construction))

/-- R28 at the state after reset, for the block the model resets to (log 1). -/
def Obligations.ResetHoldsTheResetValues : Prop :=
  ∃ d g, State.reset.dev = some d ∧ d.n = 8 ∧
    d.pix = List.replicate 8 { hdr := 0xE7, blue := 0x00, green := 0x00, red := 0x00 } ∧
    d.cot = true ∧ d.endLen = 4 + (8 + 15) / 16 ∧ d.rel = false ∧
    d.seq = { phase := .idle, byteIdx := 0, bitIdx := 7 } ∧ State.reset.status.code = 0 ∧
    d.tx = .gpio g ∧ g.data = .held false ∧ g.clk = .held false ∧
    State.reset.hist = { writes := [], wire := [], pinlog := [] } ∧ State.reset.writeCount = 0

/-- The model's choice of the block after reset (log 1): it is the one that a successful `CONSTRUCT` of 8 pixels on the GPIO variant
leaves, from any state. -/
def Obligations.ResetIsTheDefaultConstruction : Prop :=
  ∀ s : State, s.env.acquireScript[s.env.acquireTick]? = some .ok →
    s.env.acquireScript[s.env.acquireTick + 1]? = some .ok →
    ∃ t : State, exec (.construct ⟨8, .gpioBitbang Config.presumedPinData Config.presumedPinClk⟩) s = .next t ∧
      t.dev = State.reset.dev ∧ t.status = State.reset.status ∧ t.done = State.reset.done ∧ t.hist = State.reset.hist

/-! ### Rules of the whole machine -/

/-- The invariant holds at reset (R15, R16, R19, R21, R24, R27, R28), for the block the model resets to (log 1). -/
def Obligations.InvariantHoldsAtReset : Prop := State.reset.Inv

/-- Every step keeps the invariant, over every operation and every answer of the environment (R15, R16, R19, R21, R24, R27, R77).
The frames as requests (log 9), a construction on a live block (log 12) and the history kept after `DROP` (log 15) are the model's
choice. -/
def Obligations.EveryStepKeepsTheInvariant : Prop := ∀ s t : State, s.Inv → step s = .next t → t.Inv

/-- R25: no operation but a construction changes the configuration of a live block, nor its buffer's length (R16) or `END_LEN` (R19),
and no other operation makes a block (R117). -/
def Obligations.ConfigurationIsFixed : Prop :=
  ∀ (s t : State) (i : Instr), (∀ cfg, i ≠ .construct cfg) → exec i s = .next t →
    (s.dev = none → t.dev = none) ∧
    ∀ d d', s.dev = some d → t.dev = some d' →
      d'.n = d.n ∧ d'.pix.length = d.pix.length ∧ d'.endLen = d.endLen ∧ d'.tx.config = d.tx.config

/-- R18, R20: `COT` is written by `SET_CLEAR_ON_TEARDOWN` and by nothing else, `REL` is set by `TEARDOWN` only (`DROP` leaves no block)
and never cleared, within one block's life; their reset values are 1 and 0 (at the block the model resets to,
log 1). -/
def Obligations.FlagsAreWrittenByTheirCommandsOnly : Prop :=
  (∀ (s t : State) (i : Instr) (d d' : Device), (∀ cfg, i ≠ .construct cfg) → exec i s = .next t →
    s.dev = some d → t.dev = some d' →
    ((∀ flag, i ≠ .setClearOnTeardown flag) → d'.cot = d.cot) ∧
    (i ≠ .teardown → d'.rel = d.rel) ∧ (d.rel = true → d'.rel = true)) ∧
  ∃ d, State.reset.dev = some d ∧ d.cot = true ∧ d.rel = false

/-- R102, R106: a command other than `DROP` that answers a next state writes `STATUS` and pulses `done`; it reports the hardware error
only if it is `FLUSH`, `SHOW` or `TEARDOWN`, and no command reports a construction error. That `DROP` reports nothing at all is the model's
reading (log 15). -/
def Obligations.OnlyTransportCommandsReportErrors : Prop :=
  ∀ (s t : State) (i : Instr), i.isCommand = true → i ≠ .drop → exec i s = .next t →
    t.done = true ∧ (t.status = .ok ∨ t.status = .hardware ∧ canReportFailure i = true)

/-- R22, R67 to R82: an operation that is no command, other than `CONSTRUCT`, writes no flag: `STATUS`, `done`, and the device's `COT`
and `REL` stay. For the Pixel and the transport operations the rules say so; that the frames are operations and write no `STATUS` and
no `done` is the model's choice (log 9). -/
def Obligations.InternalOperationsWriteNoFlag : Prop :=
  ∀ (s t : State) (i : Instr), i.isCommand = false → (∀ cfg, i ≠ .construct cfg) → exec i s = .next t →
    t.status = s.status ∧ t.done = s.done ∧
    ∀ d d', s.dev = some d → t.dev = some d' → d'.cot = d.cot ∧ d'.rel = d.rel

/-- R24: the history is ghost state: no operation reads it. With another history the operation answers the same state but for the
history. -/
def Obligations.HistoryIsNeverRead : Prop :=
  ∀ (s t : State) (i : Instr) (h : History), exec i s = .next t →
    ∃ h' : History, exec i { s with hist := h } = .next { t with hist := h' }

/-- R44, R24: within a block's life the history only grows: no operation but a construction takes anything back. That the history
is still there after `DROP` is the model's choice (log 15). -/
def Obligations.HistoryOnlyGrows : Prop :=
  ∀ (s t : State) (i : Instr), (∀ cfg, i ≠ .construct cfg) → exec i s = .next t →
    s.hist.writes <+: t.hist.writes ∧ s.hist.wire <+: t.hist.wire ∧ s.hist.pinlog <+: t.hist.pinlog

/-- R26, R13: no operation changes the parameters, the environment's scripts or the host's requests. That these stand in the state is the
model's choice (log 7, 3, 2). -/
def Obligations.SurroundingsAreNotWritten : Prop :=
  ∀ (s t : State) (i : Instr), exec i s = .next t →
    t.params = s.params ∧ t.host = s.host ∧ t.env.writeScript = s.env.writeScript ∧
    t.env.acquireScript = s.env.acquireScript

/-- R98, R116, U12: where no block exists no operation has a meaning but a construction and the pure default record (the name of
the refusal is the model's, log 18). -/
def Obligations.NoBlockNoOperation : Prop :=
  ∀ (s : State) (i : Instr), s.dev = none → (∀ cfg, i ≠ .construct cfg) → i ≠ .pxDefault →
    exec i s = .refused .noBlock ∧ ∀ w rest, s.host = .command w :: rest → step s = .refused .noBlock

/-- R11, R52: a step takes the next request and is `exec` of the operation it decodes to, on the state with that request taken and the
pulse of the command before it over. Where nothing is presented a step keeps all state but that pulse (R114). A call that is not well
formed is refused by name, which is a `CONSTRUCT` above `N_MAX` or with an SPI mode above 3 and nothing else (R7, U14; log 18). The
model's choices here: the host's list, with frames and calls as requests beside the port's words (log 2, log 9), and a pulse that ends
with the next step, also with an idle one (log 6). -/
def Obligations.StepRunsTheDecodedOperation : Prop :=
  (∀ (s : State) (i : Instr) (rest : List Request), i.wellFormed = true →
    (∀ w, s.host = .command w :: rest → s.cmdReady = true → decodeCmd w = .ok i →
      step s = exec i { s with host := rest, done := false }) ∧
    (∀ bytes d, s.host = .frame bytes :: rest → s.dev = some d → decodeFrame d.endLen bytes = .ok i →
      step s = exec i { s with host := rest, done := false }) ∧
    (s.host = .call i :: rest → step s = exec i { s with host := rest, done := false })) ∧
  (∀ s : State, s.host = [] → step s = .next { s with done := false }) ∧
  (∀ (s : State) (i : Instr) (rest : List Request), i.wellFormed = false → s.host = .call i :: rest →
    step s = .refused .illFormed) ∧
  ∀ i : Instr, i.wellFormed = false ↔
    ∃ (n : Nat) (tx : TransportChoice), i = .construct { pixelCount := n, transport := tx } ∧
      (65535 < n ∨ ∃ bus cs hz mode, tx = .hardwareSpi bus cs hz mode ∧ 3 < mode)

/-- A word of the table placed by `withFetchWord` is what the next step runs: a command word on a ready block, a frame on a block with
the table's `END_LEN` (R52, R55, R47). The model's choices here: `withFetchWord` itself and the host's list it writes (log 2), frames that
run as requests (log 9), a shorter table word read as a frame with the default block's `END_LEN` (log 19), and the pulse that is over
(log 6). -/
def Obligations.PlacedWordIsRunNext : Prop :=
  ∀ (s : State) (nbits w : Nat) (i : Instr) (d : Device), s.cmdReady = true → s.dev = some d →
    d.endLen = tableEndLen → decodeTableWord nbits w = some i →
    step (s.withFetchWord nbits w) = exec i { s with done := false }
end

