-- ==== Sys2Proof/Laws/State.lean ====
section
/-!
SUPPORT. What each named update does to each field, true by unfolding, so that no later proof unfolds a record update.
-/

namespace Sys2Proof.Machine

/-! ### `State.complete`, `State.answer`, `State.put`, `State.take`, `State.wait` -/

@[simp] theorem State.complete_dev (s : State) (st : Status) : (s.complete st).dev = s.dev := rfl
@[simp] theorem State.complete_status (s : State) (st : Status) : (s.complete st).status = st := rfl
@[simp] theorem State.complete_done (s : State) (st : Status) : (s.complete st).done = true := rfl
@[simp] theorem State.complete_hist (s : State) (st : Status) : (s.complete st).hist = s.hist := rfl
@[simp] theorem State.complete_params (s : State) (st : Status) : (s.complete st).params = s.params := rfl
@[simp] theorem State.complete_env (s : State) (st : Status) : (s.complete st).env = s.env := rfl
@[simp] theorem State.complete_host (s : State) (st : Status) : (s.complete st).host = s.host := rfl
@[simp] theorem State.complete_ret (s : State) (st : Status) : (s.complete st).ret = s.ret := rfl

@[simp] theorem State.answer_dev (s : State) (v : Ret) : (s.answer v).dev = s.dev := rfl
@[simp] theorem State.answer_status (s : State) (v : Ret) : (s.answer v).status = s.status := rfl
@[simp] theorem State.answer_done (s : State) (v : Ret) : (s.answer v).done = s.done := rfl
@[simp] theorem State.answer_hist (s : State) (v : Ret) : (s.answer v).hist = s.hist := rfl
@[simp] theorem State.answer_params (s : State) (v : Ret) : (s.answer v).params = s.params := rfl
@[simp] theorem State.answer_env (s : State) (v : Ret) : (s.answer v).env = s.env := rfl
@[simp] theorem State.answer_host (s : State) (v : Ret) : (s.answer v).host = s.host := rfl
@[simp] theorem State.answer_ret (s : State) (v : Ret) : (s.answer v).ret = v := rfl

@[simp] theorem State.put_dev (s : State) (b : Block) : (s.put b).dev = some b.dev := rfl
@[simp] theorem State.put_status (s : State) (b : Block) : (s.put b).status = s.status := rfl
@[simp] theorem State.put_done (s : State) (b : Block) : (s.put b).done = s.done := rfl
@[simp] theorem State.put_hist (s : State) (b : Block) : (s.put b).hist = b.hist := rfl
@[simp] theorem State.put_params (s : State) (b : Block) : (s.put b).params = s.params := rfl
@[simp] theorem State.put_env (s : State) (b : Block) : (s.put b).env = b.env := rfl
@[simp] theorem State.put_host (s : State) (b : Block) : (s.put b).host = s.host := rfl
@[simp] theorem State.put_ret (s : State) (b : Block) : (s.put b).ret = s.ret := rfl

@[simp] theorem State.take_dev (s : State) : s.take.dev = s.dev := rfl
@[simp] theorem State.take_status (s : State) : s.take.status = s.status := rfl
@[simp] theorem State.take_done (s : State) : s.take.done = false := rfl
@[simp] theorem State.take_hist (s : State) : s.take.hist = s.hist := rfl
@[simp] theorem State.take_params (s : State) : s.take.params = s.params := rfl
@[simp] theorem State.take_env (s : State) : s.take.env = s.env := rfl
@[simp] theorem State.take_host (s : State) : s.take.host = s.host.tail := rfl
@[simp] theorem State.take_ret (s : State) : s.take.ret = s.ret := rfl

@[simp] theorem State.wait_dev (s : State) : s.wait.dev = s.dev := rfl
@[simp] theorem State.wait_status (s : State) : s.wait.status = s.status := rfl
@[simp] theorem State.wait_done (s : State) : s.wait.done = false := rfl
@[simp] theorem State.wait_hist (s : State) : s.wait.hist = s.hist := rfl
@[simp] theorem State.wait_params (s : State) : s.wait.params = s.params := rfl
@[simp] theorem State.wait_env (s : State) : s.wait.env = s.env := rfl
@[simp] theorem State.wait_host (s : State) : s.wait.host = s.host := rfl
@[simp] theorem State.wait_ret (s : State) : s.wait.ret = s.ret := rfl

/-! ### Construction -/

@[simp] theorem State.created_dev (s : State) (k n : Nat) (tx : Transport) :
    (s.created k n tx).dev = some (Device.fresh n tx) := rfl
@[simp] theorem State.created_status (s : State) (k n : Nat) (tx : Transport) : (s.created k n tx).status = .ok := rfl
@[simp] theorem State.created_done (s : State) (k n : Nat) (tx : Transport) : (s.created k n tx).done = false := rfl
@[simp] theorem State.created_hist (s : State) (k n : Nat) (tx : Transport) :
    (s.created k n tx).hist = History.empty := rfl
@[simp] theorem State.created_params (s : State) (k n : Nat) (tx : Transport) :
    (s.created k n tx).params = s.params := rfl
@[simp] theorem State.created_host (s : State) (k n : Nat) (tx : Transport) : (s.created k n tx).host = s.host := rfl

@[simp] theorem State.notCreated_dev (s : State) (k : Nat) (ops : List PinOp) : (s.notCreated k ops).dev = none := rfl
@[simp] theorem State.notCreated_status (s : State) (k : Nat) (ops : List PinOp) :
    (s.notCreated k ops).status = .construction := rfl
@[simp] theorem State.notCreated_hist (s : State) (k : Nat) (ops : List PinOp) :
    (s.notCreated k ops).hist = { writes := [], wire := [], pinlog := ops } := rfl
@[simp] theorem State.notCreated_params (s : State) (k : Nat) (ops : List PinOp) :
    (s.notCreated k ops).params = s.params := rfl
@[simp] theorem State.notCreated_host (s : State) (k : Nat) (ops : List PinOp) :
    (s.notCreated k ops).host = s.host := rfl

/-! ### Device updates -/

@[simp] theorem Device.modifyAll_pix (d : Device) (f : Pixel → Pixel) : (d.modifyAll f).pix = d.pix.map f := rfl
@[simp] theorem Device.modifyAll_n (d : Device) (f : Pixel → Pixel) : (d.modifyAll f).n = d.n := rfl
@[simp] theorem Device.modifyAll_cot (d : Device) (f : Pixel → Pixel) : (d.modifyAll f).cot = d.cot := rfl
@[simp] theorem Device.modifyAll_endLen (d : Device) (f : Pixel → Pixel) : (d.modifyAll f).endLen = d.endLen := rfl
@[simp] theorem Device.modifyAll_rel (d : Device) (f : Pixel → Pixel) : (d.modifyAll f).rel = d.rel := rfl
@[simp] theorem Device.modifyAll_seq (d : Device) (f : Pixel → Pixel) : (d.modifyAll f).seq = d.seq := rfl
@[simp] theorem Device.modifyAll_tx (d : Device) (f : Pixel → Pixel) : (d.modifyAll f).tx = d.tx := rfl

@[simp] theorem Device.modifyPixel_n (d : Device) (i : Index) (f : Pixel → Pixel) : (d.modifyPixel i f).n = d.n := by
  unfold Device.modifyPixel; split <;> rfl
@[simp] theorem Device.modifyPixel_cot (d : Device) (i : Index) (f : Pixel → Pixel) :
    (d.modifyPixel i f).cot = d.cot := by unfold Device.modifyPixel; split <;> rfl
@[simp] theorem Device.modifyPixel_endLen (d : Device) (i : Index) (f : Pixel → Pixel) :
    (d.modifyPixel i f).endLen = d.endLen := by unfold Device.modifyPixel; split <;> rfl
@[simp] theorem Device.modifyPixel_rel (d : Device) (i : Index) (f : Pixel → Pixel) :
    (d.modifyPixel i f).rel = d.rel := by unfold Device.modifyPixel; split <;> rfl
@[simp] theorem Device.modifyPixel_seq (d : Device) (i : Index) (f : Pixel → Pixel) :
    (d.modifyPixel i f).seq = d.seq := by unfold Device.modifyPixel; split <;> rfl
@[simp] theorem Device.modifyPixel_tx (d : Device) (i : Index) (f : Pixel → Pixel) :
    (d.modifyPixel i f).tx = d.tx := by unfold Device.modifyPixel; split <;> rfl

@[simp] theorem Device.setCot_pix (d : Device) (c : Bool) : (d.setCot c).pix = d.pix := rfl
@[simp] theorem Device.setCot_n (d : Device) (c : Bool) : (d.setCot c).n = d.n := rfl
@[simp] theorem Device.setCot_cot (d : Device) (c : Bool) : (d.setCot c).cot = c := rfl
@[simp] theorem Device.setCot_endLen (d : Device) (c : Bool) : (d.setCot c).endLen = d.endLen := rfl
@[simp] theorem Device.setCot_rel (d : Device) (c : Bool) : (d.setCot c).rel = d.rel := rfl
@[simp] theorem Device.setCot_seq (d : Device) (c : Bool) : (d.setCot c).seq = d.seq := rfl
@[simp] theorem Device.setCot_tx (d : Device) (c : Bool) : (d.setCot c).tx = d.tx := rfl

@[simp] theorem Device.markReleased_pix (d : Device) : d.markReleased.pix = d.pix := rfl
@[simp] theorem Device.markReleased_n (d : Device) : d.markReleased.n = d.n := rfl
@[simp] theorem Device.markReleased_cot (d : Device) : d.markReleased.cot = d.cot := rfl
@[simp] theorem Device.markReleased_endLen (d : Device) : d.markReleased.endLen = d.endLen := rfl
@[simp] theorem Device.markReleased_rel (d : Device) : d.markReleased.rel = true := rfl
@[simp] theorem Device.markReleased_seq (d : Device) : d.markReleased.seq = d.seq := rfl
@[simp] theorem Device.markReleased_tx (d : Device) : d.markReleased.tx = d.tx := rfl

/-! ### Block updates -/

@[simp] theorem Block.clearPixels_dev (b : Block) : b.clearPixels.dev = b.dev.modifyAll Pixel.clear := rfl
@[simp] theorem Block.clearPixels_hist (b : Block) : b.clearPixels.hist = b.hist := rfl
@[simp] theorem Block.clearPixels_env (b : Block) : b.clearPixels.env = b.env := rfl

@[simp] theorem Block.enterPhase_tx (b : Block) (ph : Phase) : (b.enterPhase ph).dev.tx = b.dev.tx := rfl
@[simp] theorem Block.enterPhase_hist (b : Block) (ph : Phase) : (b.enterPhase ph).hist = b.hist := rfl
@[simp] theorem Block.enterPhase_env (b : Block) (ph : Phase) : (b.enterPhase ph).env = b.env := rfl

@[simp] theorem Block.toIdle_tx (b : Block) : b.toIdle.dev.tx = b.dev.tx := rfl
@[simp] theorem Block.toIdle_seq (b : Block) : b.toIdle.dev.seq = Seq.idle := rfl
@[simp] theorem Block.toIdle_hist (b : Block) : b.toIdle.hist = b.hist := rfl
@[simp] theorem Block.toIdle_env (b : Block) : b.toIdle.env = b.env := rfl

end Sys2Proof.Machine
end

