-- ==== Sys2Proof/Laws/Buffer.lean ====
section
/-!
SUPPORT. The buffer's writes keep its form: the number of records and the marker of every header (10_state.md R15, R16).
-/

namespace Sys2Proof.Machine

/-- The header assembled by `or` is the marker over the field (R49, R62). -/
theorem brightnessHdr_eq_append (x : F32) : brightnessHdr x = 0b111#3 ++ enc5 x := by
  unfold brightnessHdr
  generalize enc5 x = k
  revert k
  decide

theorem hasMarker_append (k : Field) : hasMarker (0b111#3 ++ k) = true := by
  revert k
  decide

theorem brightnessHdr_marked (x : F32) : hasMarker (brightnessHdr x) = true := by
  rw [brightnessHdr_eq_append, hasMarker_append]

/-- A marked header is the marker over its own field (R15). -/
theorem hdrByte_field {p : Pixel} (h : p.marked = true) : hdrByte p.field = p.hdr := by
  unfold Pixel.marked at h
  unfold Pixel.field
  generalize p.hdr = x at h
  revert x
  decide

theorem Pixel.setRgb_marked {p : Pixel} (h : p.marked = true) (r g b : Byte) : (p.setRgb r g b).marked = true := h

theorem Pixel.setBrightness_marked (p : Pixel) (x : F32) : (p.setBrightness x).marked = true := brightnessHdr_marked x

theorem Pixel.setRgbb_marked (p : Pixel) (r g b : Byte) (x : F32) : (p.setRgbb r g b x).marked = true :=
  brightnessHdr_marked x

theorem Pixel.clear_marked {p : Pixel} (h : p.marked = true) : p.clear.marked = true := h

@[simp] theorem Pixel.rawBytes_length (p : Pixel) : p.rawBytes.length = 4 := rfl

@[simp] theorem Device.modifyPixel_length (d : Device) (i : Index) (f : Pixel → Pixel) :
    (d.modifyPixel i f).pix.length = d.pix.length := by
  unfold Device.modifyPixel
  split <;> simp

/-- A write to one record keeps every header marked if it keeps that record's. -/
theorem Device.modifyPixel_marked {d : Device} (i : Index) {f : Pixel → Pixel}
    (hf : ∀ p : Pixel, p.marked = true → (f p).marked = true) (h : ∀ p ∈ d.pix, p.marked = true) :
    ∀ p ∈ (d.modifyPixel i f).pix, p.marked = true := by
  unfold Device.modifyPixel
  split
  · intro p hp
    obtain ⟨j, hj, rfl⟩ := List.mem_iff_getElem.mp hp
    rw [List.length_modify] at hj
    simp only [List.getElem_modify]
    split
    · exact hf _ (h _ (List.getElem_mem hj))
    · exact h _ (List.getElem_mem hj)
  · exact h

theorem Device.modifyAll_marked {d : Device} {f : Pixel → Pixel}
    (hf : ∀ p : Pixel, p.marked = true → (f p).marked = true) (h : ∀ p ∈ d.pix, p.marked = true) :
    ∀ p ∈ (d.modifyAll f).pix, p.marked = true := by
  intro p hp
  obtain ⟨q, hq, rfl⟩ := List.mem_map.mp hp
  exact hf q (h q hq)

/-- A write to the buffer that keeps markers keeps the device well formed. -/
theorem Device.WellFormed.modifyPixel {d : Device} (h : d.WellFormed) (i : Index) {f : Pixel → Pixel}
    (hf : ∀ p : Pixel, p.marked = true → (f p).marked = true) : (d.modifyPixel i f).WellFormed where
  length_pix := by simpa using h.length_pix
  n_le := by simpa using h.n_le
  endLen_eq := by simpa using h.endLen_eq
  marked := Device.modifyPixel_marked i hf h.marked
  seq_idle := by simpa using h.seq_idle

theorem Device.WellFormed.modifyAll {d : Device} (h : d.WellFormed) {f : Pixel → Pixel}
    (hf : ∀ p : Pixel, p.marked = true → (f p).marked = true) : (d.modifyAll f).WellFormed where
  length_pix := by simpa using h.length_pix
  n_le := h.n_le
  endLen_eq := h.endLen_eq
  marked := Device.modifyAll_marked hf h.marked
  seq_idle := h.seq_idle

/-- A fresh device is well formed for every legal pixel count (R28). -/
theorem Device.fresh_wellFormed {n : Nat} (h : n ≤ Config.nMax) (tx : Transport) : (Device.fresh n tx).WellFormed where
  length_pix := by simp [Device.fresh]
  n_le := h
  endLen_eq := rfl
  marked := by
    intro p hp
    rw [List.eq_of_mem_replicate hp]
    decide
  seq_idle := rfl

/-- The length of one whole frame (20_memory.md R39). -/
theorem Device.flushFrame_length {d : Device} (h : d.WellFormed) : d.flushFrame.length = totalLen d.n := by
  have led : d.ledBytes.length = 4 * d.n := by
    rw [← h.length_pix, Device.ledBytes, List.length_flatMap]
    simp [Nat.mul_comm]
  simp only [Device.flushFrame, List.length_append, zeros, List.length_replicate, led, h.endLen_eq, endLenOf, totalLen]
  omega

end Sys2Proof.Machine
end

