-- ==== Sys2Proof/Laws/Encoding.lean ====
section
/-!
SUPPORT. The fields of an assembled command word are the fields it was assembled from (30_encoding.md R53), and what each code
decodes to (R54 to R56).
-/

namespace Sys2Proof

variable (op : Byte) (idx : Index) (r g b : Byte) (br : F32)

/-- Bit `k` of an assembled word, by the field it lies in. -/
theorem cmdWord_getLsbD (k : Nat) :
    (cmdWord op idx r g b br).getLsbD k =
      if k < 32 then br.getLsbD k else if k < 40 then b.getLsbD (k - 32) else if k < 48 then g.getLsbD (k - 40)
      else if k < 56 then r.getLsbD (k - 48) else if k < 72 then idx.getLsbD (k - 56) else op.getLsbD (k - 72) := by
  simp only [cmdWord, BitVec.getLsbD_append, Nat.sub_sub]
  split_ifs <;> first | rfl | omega

@[simp] theorem cmdOp_cmdWord : cmdOp (cmdWord op idx r g b br) = op := by
  apply BitVec.eq_of_getLsbD_eq
  intro k hk
  simp only [cmdOp, BitVec.getLsbD_extractLsb', hk, decide_true, Bool.true_and, cmdWord_getLsbD]
  split_ifs <;> first | omega | (congr 1; omega)

@[simp] theorem cmdIdx_cmdWord : cmdIdx (cmdWord op idx r g b br) = idx := by
  apply BitVec.eq_of_getLsbD_eq
  intro k hk
  simp only [cmdIdx, BitVec.getLsbD_extractLsb', hk, decide_true, Bool.true_and, cmdWord_getLsbD]
  split_ifs <;> first | omega | (congr 1; omega)

@[simp] theorem cmdR_cmdWord : cmdR (cmdWord op idx r g b br) = r := by
  apply BitVec.eq_of_getLsbD_eq
  intro k hk
  simp only [cmdR, BitVec.getLsbD_extractLsb', hk, decide_true, Bool.true_and, cmdWord_getLsbD]
  split_ifs <;> first | omega | (congr 1; omega)

@[simp] theorem cmdG_cmdWord : cmdG (cmdWord op idx r g b br) = g := by
  apply BitVec.eq_of_getLsbD_eq
  intro k hk
  simp only [cmdG, BitVec.getLsbD_extractLsb', hk, decide_true, Bool.true_and, cmdWord_getLsbD]
  split_ifs <;> first | omega | (congr 1; omega)

@[simp] theorem cmdB_cmdWord : cmdB (cmdWord op idx r g b br) = b := by
  apply BitVec.eq_of_getLsbD_eq
  intro k hk
  simp only [cmdB, BitVec.getLsbD_extractLsb', hk, decide_true, Bool.true_and, cmdWord_getLsbD]
  split_ifs <;> first | omega | (congr 1; omega)

@[simp] theorem cmdBr_cmdWord : cmdBr (cmdWord op idx r g b br) = br := by
  apply BitVec.eq_of_getLsbD_eq
  intro k hk
  simp only [cmdBr, BitVec.getLsbD_extractLsb', hk, decide_true, Bool.true_and, cmdWord_getLsbD]
  split_ifs <;> first | omega | (congr 1; omega)

@[simp] theorem cmdFlag_cmdWord : cmdFlag (cmdWord op idx r g b br) = r.getLsbD 0 := by
  rw [cmdFlag, cmdWord_getLsbD]
  simp only [Nat.reduceLT, if_false, if_true, Nat.sub_self]

end Sys2Proof
end

