-- ==== Sys2Proof/Laws/PerInstr.lean ====
section
/-!
SUPPORT. A statement made of every operation as syntax: the command port's operations, and no others, have a command word, the
word's code is not reserved, and the three wire frames, and no others, have frame bytes (30_encoding.md R54, R55, R63, R65).
-/

namespace Sys2Proof.Laws.Encodings

/-- The encodings an operation has: a command word with a code from `0x01` to `0x0B` if it is a command, frame bytes if it is one of
the three frames, and never both. -/
def Statement (i : Instr) : Prop :=
  (i.isCommand = (encodeCmd i).isSome) ∧
  (∀ w, encodeCmd i = some w → 0x01 ≤ (cmdOp w).toNat ∧ (cmdOp w).toNat ≤ 0x0B) ∧
  ∀ endLen, (encodeFrame endLen i).isSome = true → i.isCommand = false

/-- A command whose word is assembled with a code of the table. -/
theorem of_command {i : Instr} {op : Byte} {idx : Index} {r g b : Byte} {br : F32} (hc : i.isCommand = true)
    (hw : encodeCmd i = some (cmdWord op idx r g b br)) (hf : ∀ endLen, encodeFrame endLen i = none)
    (lo : 0x01 ≤ op.toNat) (hi : op.toNat ≤ 0x0B) : Statement i := by
  refine ⟨by simp [hc, hw], ?_, by simp [hf]⟩
  rintro w h
  rw [hw] at h
  cases h
  rw [cmdOp_cmdWord]
  exact ⟨lo, hi⟩

/-- An operation that the command port does not take. -/
theorem of_other {i : Instr} (hc : i.isCommand = false) (hw : encodeCmd i = none) : Statement i :=
  ⟨by simp [hc, hw], by simp [hw], fun _ _ => hc⟩

theorem setPixel (idx : Index) (r g b : Byte) : Statement (.setPixel idx r g b) :=
  of_command rfl rfl (fun _ => rfl) (by decide) (by decide)
theorem setPixelRgbb (idx : Index) (r g b : Byte) (br : F32) : Statement (.setPixelRgbb idx r g b br) :=
  of_command rfl rfl (fun _ => rfl) (by decide) (by decide)
theorem setPixelBrightness (idx : Index) (br : F32) : Statement (.setPixelBrightness idx br) :=
  of_command rfl rfl (fun _ => rfl) (by decide) (by decide)
theorem setAllPixels (r g b : Byte) : Statement (.setAllPixels r g b) :=
  of_command rfl rfl (fun _ => rfl) (by decide) (by decide)
theorem setAllPixelsRgbb (r g b : Byte) (br : F32) : Statement (.setAllPixelsRgbb r g b br) :=
  of_command rfl rfl (fun _ => rfl) (by decide) (by decide)
theorem setAllPixelsBrightness (br : F32) : Statement (.setAllPixelsBrightness br) :=
  of_command rfl rfl (fun _ => rfl) (by decide) (by decide)
theorem clear : Statement .clear := of_command rfl rfl (fun _ => rfl) (by decide) (by decide)
theorem flush : Statement .flush := of_command rfl rfl (fun _ => rfl) (by decide) (by decide)
theorem showFrame : Statement .showFrame := of_command rfl rfl (fun _ => rfl) (by decide) (by decide)
theorem setClearOnTeardown (flag : Bool) : Statement (.setClearOnTeardown flag) :=
  of_command rfl rfl (fun _ => rfl) (by decide) (by decide)
theorem teardown : Statement .teardown := of_command rfl rfl (fun _ => rfl) (by decide) (by decide)
theorem drop : Statement .drop := of_command rfl rfl (fun _ => rfl) (by decide) (by decide)
theorem startFrame : Statement .startFrame := of_other rfl rfl
theorem ledFrame (k : Field) (blue green red : Byte) : Statement (.ledFrame k blue green red) := of_other rfl rfl
theorem endFrame : Statement .endFrame := of_other rfl rfl
theorem pxSetRgb (i : Index) (r g b : Byte) : Statement (.pxSetRgb i r g b) := of_other rfl rfl
theorem pxSetBrightness (i : Index) (x : F32) : Statement (.pxSetBrightness i x) := of_other rfl rfl
theorem pxSetRgbb (i : Index) (r g b : Byte) (x : F32) : Statement (.pxSetRgbb i r g b x) := of_other rfl rfl
theorem pxRgb (i : Index) : Statement (.pxRgb i) := of_other rfl rfl
theorem pxBrightness (i : Index) : Statement (.pxBrightness i) := of_other rfl rfl
theorem pxRgbb (i : Index) : Statement (.pxRgbb i) := of_other rfl rfl
theorem pxClear (i : Index) : Statement (.pxClear i) := of_other rfl rfl
theorem pxRawBytes (i : Index) : Statement (.pxRawBytes i) := of_other rfl rfl
theorem pxDefault : Statement .pxDefault := of_other rfl rfl
theorem txWrite (bytes : List Byte) : Statement (.txWrite bytes) := of_other rfl rfl
theorem txWriteGpio (bytes : List Byte) : Statement (.txWriteGpio bytes) := of_other rfl rfl
theorem txWriteSpi (bytes : List Byte) : Statement (.txWriteSpi bytes) := of_other rfl rfl
theorem txTeardownGpio : Statement .txTeardownGpio := of_other rfl rfl
theorem txTeardownSpi : Statement .txTeardownSpi := of_other rfl rfl
theorem construct (cfg : ConstructCfg) : Statement (.construct cfg) := of_other rfl rfl

end Sys2Proof.Laws.Encodings
end

