-- ==== Sys2Proof/Laws/Transport.lean ====
section
/-!
SUPPORT. What a write call, the sections of a frame, and the ends of an operation can do: one lemma each, to be cited instead of
unfolding them.
-/

namespace Sys2Proof.Machine

/-! ### Pin operations -/

@[simp] theorem bitsOf_append (xs ys : List Byte) : bitsOf (xs ++ ys) = bitsOf xs ++ bitsOf ys :=
  List.flatMap_append

@[simp] theorem pinOpsOf_append (xs ys : List Byte) : pinOpsOf (xs ++ ys) = pinOpsOf xs ++ pinOpsOf ys := by
  simp [pinOpsOf]

@[simp] theorem pinOpsOf_nil : pinOpsOf [] = [] := rfl

@[simp] theorem GpioPort.actAll_nil (g : GpioPort) : g.actAll [] = g := rfl

@[simp] theorem GpioPort.actAll_append (g : GpioPort) (xs ys : List PinOp) :
    g.actAll (xs ++ ys) = (g.actAll xs).actAll ys := List.foldl_append

/-- One bit cell leaves the data line at its bit and the clock low (R51). -/
theorem GpioPort.actAll_bitCell (g : GpioPort) (bit : Bool) :
    g.actAll (bitCell bit) = { g with data := .held bit, clk := .held false } := rfl

/-- Bit cells leave the data line at the last bit and the clock low, and touch nothing where there is none (R27, R77). -/
theorem GpioPort.actAll_bitCells (bits : List Bool) (g : GpioPort) :
    g.actAll (bits.flatMap bitCell) =
      match bits.getLast? with
      | none => g
      | some bit => { g with data := .held bit, clk := .held false } := by
  induction bits generalizing g with
  | nil => rfl
  | cons b bits ih =>
    rw [List.flatMap_cons, GpioPort.actAll_append, GpioPort.actAll_bitCell, ih, List.getLast?_cons]
    cases bits.getLast? <;> rfl

/-- Sending bytes keeps held handles held and the configuration as it was (R23, R77). -/
theorem Transport.after_usable {tx : Transport} (h : tx.usable = true) (bytes : List Byte) :
    (tx.after bytes).usable = true := by
  cases tx with
  | gpio g =>
    simp only [Transport.after, pinOpsOf, GpioPort.actAll_bitCells]
    split <;> simp_all [Transport.usable, Handle.isHeld]
  | spi p => exact h

@[simp] theorem Transport.after_config (tx : Transport) (bytes : List Byte) : (tx.after bytes).config = tx.config := by
  cases tx with
  | gpio g =>
    simp only [Transport.after, pinOpsOf, GpioPort.actAll_bitCells]
    split <;> rfl
  | spi p => rfl

@[simp] theorem Transport.after_nil (tx : Transport) : tx.after [] = tx := by cases tx <;> rfl

@[simp] theorem Transport.after_append (tx : Transport) (xs ys : List Byte) :
    tx.after (xs ++ ys) = (tx.after xs).after ys := by cases tx <;> simp [Transport.after]

@[simp] theorem Transport.after_pinOpsFor (tx : Transport) (xs ys : List Byte) :
    (tx.after xs).pinOpsFor ys = tx.pinOpsFor ys := by cases tx <;> rfl

@[simp] theorem Transport.after_writeCannotFail (tx : Transport) (xs : List Byte) (p : Params) :
    (tx.after xs).writeCannotFail p = tx.writeCannotFail p := by cases tx <;> rfl

@[simp] theorem Transport.pinOpsFor_append (tx : Transport) (xs ys : List Byte) :
    tx.pinOpsFor (xs ++ ys) = tx.pinOpsFor xs ++ tx.pinOpsFor ys := by cases tx <;> simp [Transport.pinOpsFor]

@[simp] theorem Transport.pinOpsFor_nil (tx : Transport) : tx.pinOpsFor [] = [] := by cases tx <;> rfl

/-! ### The environment's answers -/

/-- A call that fails has sent at most the whole sequence (R78). -/
theorem allowedOutcome_fail_le {p : Params} {tx : Transport} {len j : Nat} {a : WriteOutcome}
    (h : allowedOutcome p tx len a = .fail j) : j ≤ len := by
  unfold allowedOutcome at h
  split at h
  · cases h
  · cases a <;> simp only at h
    · cases h
    · split at h
      · cases h
      · cases h; exact Nat.min_le_right _ _
    · split at h <;> cases h

/-- Where every write returns, no answer blocks (D24). -/
theorem allowedOutcome_ne_blocked {p : Params} (h : p.transportLive = true) (tx : Transport) (len : Nat)
    (a : WriteOutcome) : allowedOutcome p tx len a ≠ .blocked := by
  unfold allowedOutcome
  split
  · simp
  · cases a <;> simp only
    · simp
    · split <;> simp
    · simp

theorem allowedOutcome_ok (p : Params) (tx : Transport) (len : Nat) : allowedOutcome p tx len .ok = .ok := by
  unfold allowedOutcome
  split <;> rfl

theorem allowedOutcome_of_cannotFail {p : Params} {tx : Transport} (hl : p.transportLive = true)
    (hc : tx.writeCannotFail p = true) (len : Nat) (a : WriteOutcome) : allowedOutcome p tx len a = .ok := by
  simp [allowedOutcome, hl, hc]

theorem allowedOutcome_fail {p : Params} {tx : Transport} (hc : tx.writeCannotFail p = false) (len j : Nat) :
    allowedOutcome p tx len (.fail j) = .fail (min j len) := by simp [allowedOutcome, hc]

/-! ### One write call -/

/-- What a recorded call leaves (R76): the transport has sent the call's bytes, the history holds them and the call, and the tick
has advanced; the rest of the device is untouched. -/
theorem Block.recordWrite_eq (bytes : List Byte) (out : WriteOutcome) (b : Block) :
    b.recordWrite bytes out =
      { dev := { b.dev with tx := b.dev.tx.after (sentBytes bytes out) }
        hist := b.hist.after b.dev.tx [{ bytes := bytes, outcome := out }]
        env := { b.env with writeTick := b.env.writeTick + 1 } } := by
  obtain ⟨d, h, e⟩ := b
  obtain ⟨n, pix, cot, endLen, rel, seq, tx⟩ := d
  cases tx <;> simp [Block.recordWrite, Block.drivePins, Transport.after, History.after, sentOf, Transport.pinOpsFor]

/-- Everything a write call that answers can have done (R76). -/
theorem Block.txWrite_cases {p : Params} {bytes : List Byte} {b b' : Block} {st : Status}
    (h : b.txWrite p bytes = .ok (st, b')) :
    b.dev.tx.usable = true ∧
      ((st = .ok ∧ b.nextOutcome p bytes = .ok ∧ b' = b.recordWrite bytes .ok) ∨
        ∃ j, j ≤ bytes.length ∧ st = .hardware ∧ b.nextOutcome p bytes = .fail j ∧ b' = b.recordWrite bytes (.fail j)) := by
  unfold Block.txWrite at h
  split at h
  next hu =>
    refine ⟨hu, ?_⟩
    split at h
    next => cases h
    next ho => cases h; exact .inl ⟨rfl, ho, rfl⟩
    next j ho => cases h; exact .inr ⟨j, allowedOutcome_fail_le ho, rfl, ho, rfl⟩
  next => cases h

/-- A call on held handles whose outcome is `Ok`. -/
theorem Block.txWrite_ok {p : Params} {bytes : List Byte} {b : Block} (hu : b.dev.tx.usable = true)
    (ho : b.nextOutcome p bytes = .ok) : b.txWrite p bytes = .ok (.ok, b.recordWrite bytes .ok) := by
  simp [Block.txWrite, hu, ho]

/-- A call on held handles that fails. -/
theorem Block.txWrite_fail {p : Params} {bytes : List Byte} {b : Block} {j : Nat} (hu : b.dev.tx.usable = true)
    (ho : b.nextOutcome p bytes = .fail j) : b.txWrite p bytes = .ok (.hardware, b.recordWrite bytes (.fail j)) := by
  simp [Block.txWrite, hu, ho]

/-- A call that faults: the handles are not held, or the call never returns. -/
theorem Block.txWrite_error {p : Params} {bytes : List Byte} {b : Block} {f : Fault}
    (h : b.txWrite p bytes = .error f) :
    (b.dev.tx.usable = false ∧ f = .handleReleased) ∨ (b.nextOutcome p bytes = .blocked ∧ f = .writeBlocked) := by
  unfold Block.txWrite at h
  split at h
  next hu =>
    split at h
    next ho => cases h; exact .inr ⟨ho, rfl⟩
    next => cases h
    next => cases h
  next hu => cases h; exact .inl ⟨by simpa using hu, rfl⟩

/-- A call of a live transport on held handles answers. -/
theorem Block.txWrite_answers {p : Params} {bytes : List Byte} {b : Block} (hu : b.dev.tx.usable = true)
    (hl : p.transportLive = true) : ∃ st b', b.txWrite p bytes = .ok (st, b') := by
  unfold Block.txWrite
  rw [if_pos hu]
  split
  next ho => exact absurd ho (allowedOutcome_ne_blocked hl _ _ _)
  next => exact ⟨_, _, rfl⟩
  next => exact ⟨_, _, rfl⟩

/-! ### The sections of a frame -/

/-- On handles that are not held a write call stops (log 11). -/
theorem Block.txWrite_released {p : Params} {bytes : List Byte} {b : Block} (hu : b.dev.tx.usable = false) :
    b.txWrite p bytes = .error .handleReleased := by
  simp [Block.txWrite, hu]

/-- On handles that are not held the first section of a frame stops (log 11). -/
theorem sendSections_released {p : Params} {ph : Phase} {bytes : List Byte} {rest : List (Phase × List Byte)} {b : Block}
    (hu : b.dev.tx.usable = false) : sendSections p ((ph, bytes) :: rest) b = .error .handleReleased := by
  have h : (b.enterPhase ph).dev.tx.usable = false := hu
  simp [sendSections, Block.txWrite_released h]

/-- On a GPIO block whose pins are not held the transport's teardown stops (log 11). -/
theorem Block.txTeardown_released {b : Block} {g : GpioPort} (hg : b.dev.tx = .gpio g) (hu : b.dev.tx.usable = false) :
    b.txTeardown = .error .handleReleased := by
  rw [hg] at hu
  simp only [Transport.usable] at hu
  simp [Block.txTeardown, hg, hu]

/-- Everything a run of sections that answers can have done (R92, R95): it made calls of which all but perhaps the last returned
`Ok`; only the transport, the sequencer, the history and the tick changed. -/
theorem sendSections_cases {p : Params} {secs : List (Phase × List Byte)} {b b' : Block} {st : Status}
    (h : sendSections p secs b = .ok (st, b')) :
    ∃ calls : List WriteRec,
      b' = { dev := { b.dev with seq := Seq.idle, tx := b.dev.tx.after (sentOf calls) }
             hist := b.hist.after b.dev.tx calls
             env := { b.env with writeTick := b.env.writeTick + calls.length } } ∧
      (∀ r ∈ calls, r.wf = true) ∧
      ((st = .ok ∧ calls = okCalls (secs.map Prod.snd)) ∨
        ∃ m j, m < secs.length ∧ st = .hardware ∧ calls = failedCalls (secs.map Prod.snd) m j) := by
  induction secs generalizing b with
  | nil =>
    cases h
    refine ⟨[], ?_, by simp, .inl ⟨rfl, rfl⟩⟩
    simp [Block.toIdle, sentOf, History.after]
  | cons sec secs ih =>
    obtain ⟨ph, bytes⟩ := sec
    unfold sendSections at h
    split at h
    · cases h
    next st₁ b₁ hw =>
      obtain ⟨_, ⟨rfl, _, rfl⟩ | ⟨j, hj, rfl, _, rfl⟩⟩ := Block.txWrite_cases hw
      · rw [if_pos rfl] at h
        obtain ⟨calls, rfl, hwf, hst⟩ := ih h
        refine ⟨{ bytes := bytes, outcome := .ok } :: calls, ?_, ?_, ?_⟩
        · simp only [Block.recordWrite_eq, Block.enterPhase, History.after, sentOf, sentBytes, List.flatMap_cons,
            List.flatMap_nil, List.append_nil, Transport.after_append, Transport.pinOpsFor_append,
            Transport.after_pinOpsFor, List.append_assoc, List.length_cons, List.cons_append, List.nil_append,
            Nat.add_assoc, Nat.add_comm 1]
        · simpa [WriteRec.wf] using hwf
        · rcases hst with ⟨rfl, rfl⟩ | ⟨m, j, hm, rfl, rfl⟩
          · exact .inl ⟨rfl, rfl⟩
          · exact .inr ⟨m + 1, j, by simpa using hm, rfl, by simp [failedCalls, okCalls]⟩
      · rw [if_neg (by decide)] at h
        cases h
        refine ⟨[{ bytes := bytes, outcome := .fail j }], ?_, ?_, .inr ⟨0, j, by simp, rfl, ?_⟩⟩
        · simp [Block.recordWrite_eq, Block.enterPhase, Block.toIdle, sentOf]
        · simpa [WriteRec.wf] using hj
        · simp [failedCalls, okCalls, hj]

/-- A run of sections of a live transport on held handles answers. -/
theorem sendSections_answers {p : Params} (hl : p.transportLive = true) {secs : List (Phase × List Byte)} {b : Block}
    (hu : b.dev.tx.usable = true) : ∃ st b', sendSections p secs b = .ok (st, b') := by
  induction secs generalizing b with
  | nil => exact ⟨_, _, rfl⟩
  | cons sec secs ih =>
    obtain ⟨ph, bytes⟩ := sec
    obtain ⟨st₁, b₁, hw⟩ := Block.txWrite_answers (bytes := bytes) (b := b.enterPhase ph) hu hl
    unfold sendSections
    rw [hw]
    dsimp only
    split
    next =>
      apply ih
      obtain ⟨hu₁, ⟨_, _, rfl⟩ | ⟨j, _, _, _, rfl⟩⟩ := Block.txWrite_cases hw <;>
        simpa [Block.recordWrite_eq] using Transport.after_usable hu₁ _
    next => exact ⟨_, _, rfl⟩

/-! ### The transport's teardown -/

/-- The teardown of a held transport (R81, R82). -/
theorem Block.txTeardown_eq {b : Block} (hu : b.dev.tx.usable = true) :
    b.txTeardown = .ok
      { b with
        dev := { b.dev with tx := b.dev.tx.tornDown }
        hist := { b.hist with pinlog := b.hist.pinlog ++ b.dev.tx.releaseOps } } := by
  obtain ⟨d, h, e⟩ := b
  obtain ⟨n, pix, cot, endLen, rel, seq, tx⟩ := d
  cases tx with
  | gpio g =>
    have hg : (g.data.isHeld && g.clk.isHeld) = true := hu
    simp [Block.txTeardown, hg, Block.drivePins, GpioPort.actAll, GpioPort.act, Transport.tornDown, Transport.releaseOps]
  | spi p => simp [Block.txTeardown, Transport.tornDown, Transport.releaseOps]

/-- A teardown that answers was given held handles; on the SPI variant it always answers. -/
theorem Block.txTeardown_cases {b b' : Block} (h : b.txTeardown = .ok b') :
    b' = { b with
      dev := { b.dev with tx := b.dev.tx.tornDown }
      hist := { b.hist with pinlog := b.hist.pinlog ++ b.dev.tx.releaseOps } } ∧
    ∀ g, b.dev.tx = .gpio g → b.dev.tx.usable = true := by
  obtain ⟨d, hist, e⟩ := b
  obtain ⟨n, pix, cot, endLen, rel, seq, tx⟩ := d
  cases tx with
  | gpio g =>
    simp only [Block.txTeardown] at h
    split at h
    next hu =>
      have held : (Transport.gpio g).usable = true := hu
      cases h
      exact ⟨by simp [Block.drivePins, GpioPort.actAll, GpioPort.act, Transport.tornDown, Transport.releaseOps],
        fun _ _ => held⟩
    next => cases h
  | spi p =>
    cases h
    exact ⟨by simp [Transport.tornDown, Transport.releaseOps], by simp⟩

/-! ### The pins and the wire (R27, R51) -/

/-- The data line after more bytes: at their last bit, or where it was if they have none. -/
theorem lastLevel_append (xs ys : List Byte) : lastLevel (xs ++ ys) = (bitsOf ys).getLastD (lastLevel xs) := by
  simp [lastLevel, List.getLastD_eq_getLast?, List.getLast?_append]

/-- Write calls on held handles keep the pins in agreement with the wire. -/
theorem Transport.Agrees.after {tx : Transport} {h : History} (ha : tx.Agrees h) (hu : tx.usable = true)
    (calls : List WriteRec) : (tx.after (sentOf calls)).Agrees (h.after tx calls) := by
  cases tx with
  | spi p => simpa [Transport.after, Transport.Agrees, History.after, Transport.pinOpsFor] using ha
  | gpio g =>
    rcases ha with ⟨data, clk, log⟩ | ⟨data, _, _⟩
    · refine .inl ⟨?_, ?_, ?_⟩ <;>
        simp only [pinOpsOf, GpioPort.actAll_bitCells, History.after, Transport.pinOpsFor, log, lastLevel_append,
          List.getLastD_eq_getLast?]
      · cases (bitsOf (sentOf calls)).getLast? <;> simp [data]
      · cases (bitsOf (sentOf calls)).getLast? <;> simp [clk]
      · simp
    · simp [Transport.usable, data, Handle.isHeld] at hu

/-- Write calls keep the history well formed. -/
theorem History.WellFormed.after {h : History} (hh : h.WellFormed) (tx : Transport) {calls : List WriteRec}
    (hc : ∀ r ∈ calls, r.wf = true) : (h.after tx calls).WellFormed where
  wire_eq := by simp [History.after, hh.wire_eq, sentOf]
  writes_wf := fun r hr => (List.mem_append.mp hr).elim (hh.writes_wf r) (hc r)

/-! ### The ends of an operation -/

theorem State.withBlock_none {s : State} (h : s.dev = none) (f : Block → Host.Outcome State Fault Refusal) :
    s.withBlock f = .refused .noBlock := by simp [State.withBlock, h]

theorem State.withBlock_some {s : State} {d : Device} (h : s.dev = some d)
    (f : Block → Host.Outcome State Fault Refusal) :
    s.withBlock f = f { dev := d, hist := s.hist, env := s.env } := by simp [State.withBlock, h]

/-- A command that runs completes with its result. -/
theorem State.runCommand_ok {s : State} {d : Device} (h : s.dev = some d) {f : Block → Except Fault (Status × Block)}
    {st : Status} {b : Block} (hf : f { dev := d, hist := s.hist, env := s.env } = .ok (st, b)) :
    s.runCommand f = .next ((s.put b).complete st) := by simp [State.runCommand, State.withBlock, h, hf]

/-- Everything a command that answers can have done. -/
theorem State.runCommand_cases {s t : State} {f : Block → Except Fault (Status × Block)}
    (h : s.runCommand f = .next t) :
    ∃ d st b, s.dev = some d ∧ f { dev := d, hist := s.hist, env := s.env } = .ok (st, b) ∧
      t = (s.put b).complete st := by
  unfold State.runCommand State.withBlock at h
  split at h
  · cases h
  next d hd =>
    dsimp only at h
    split at h
    · cases h
    next st b hf => cases h; exact ⟨d, st, b, hd, hf, rfl⟩

/-- An internal operation that runs returns its result. -/
theorem State.runInternal_ok {s : State} {d : Device} (h : s.dev = some d) {f : Block → Except Fault (Status × Block)}
    {st : Status} {b : Block} (hf : f { dev := d, hist := s.hist, env := s.env } = .ok (st, b)) :
    s.runInternal f = .next ((s.put b).answer (.result st)) := by simp [State.runInternal, State.withBlock, h, hf]

/-- Everything an internal operation that answers can have done. -/
theorem State.runInternal_cases {s t : State} {f : Block → Except Fault (Status × Block)}
    (h : s.runInternal f = .next t) :
    ∃ d st b, s.dev = some d ∧ f { dev := d, hist := s.hist, env := s.env } = .ok (st, b) ∧
      t = (s.put b).answer (.result st) := by
  unfold State.runInternal State.withBlock at h
  split at h
  · cases h
  next d hd =>
    dsimp only at h
    split at h
    · cases h
    next st b hf => cases h; exact ⟨d, st, b, hd, hf, rfl⟩

/-- An in-memory command always completes, and changes the device only (R91). -/
theorem State.runSetter_eq {s : State} {d : Device} (h : s.dev = some d) (f : Device → Device) :
    s.runSetter f = .next { s with dev := some (f d), status := .ok, done := true } := by
  simp [State.runSetter, State.runCommand, State.withBlock, h, State.put, State.complete]

/-- A Pixel write always answers, and changes the device only. -/
theorem State.runPixelOp_eq {s : State} {d : Device} (h : s.dev = some d) (f : Device → Device) :
    s.runPixelOp f = .next { s with dev := some (f d), ret := .none } := by
  simp [State.runPixelOp, State.withBlock, h, State.put, State.answer]

/-- A getter always answers, and changes the returned value only. -/
theorem State.runGetter_eq {s : State} {d : Device} (h : s.dev = some d) (i : Index) (f : Pixel → Ret) :
    s.runGetter i f = .next { s with ret := ((d.pixelAt i).map f).getD .none } := by
  rw [State.runGetter, State.withBlock_some h]
  dsimp only
  cases d.pixelAt i <;> rfl

end Sys2Proof.Machine
end

