-- ==== Sys2Proof/Laws/Step.lean ====
section
/-!
SUPPORT. What a flush, a teardown, a construction and a step can do: one inversion lemma each.
-/

namespace Sys2Proof.Machine

/-- Before the teardown a flush is its three sections (R92). -/
theorem flushBlock_live {p : Params} {b : Block} (h : b.dev.rel = false) :
    flushBlock p b = sendSections p b.dev.flushSections b := by simp [flushBlock, h]

/-- After the teardown a flush does nothing but report (R96). -/
theorem flushBlock_released {p : Params} {b : Block} (h : b.dev.rel = true) :
    flushBlock p b = .ok (p.postTeardownStatus, b) := by simp [flushBlock, h]

/-- The release of a held transport (R97). -/
theorem releaseBlock_eq {b : Block} (hu : b.dev.tx.usable = true) (res : Status) :
    releaseBlock res b = .ok (res,
      { b with
        dev := { b.dev with rel := true, tx := b.dev.tx.tornDown }
        hist := { b.hist with pinlog := b.hist.pinlog ++ b.dev.tx.releaseOps } }) := by
  simp [releaseBlock, Block.txTeardown_eq hu, Device.markReleased]

/-- Everything a release that answers has done: the result is the one it was given. -/
theorem releaseBlock_cases {res st : Status} {b b' : Block} (h : releaseBlock res b = .ok (st, b')) :
    st = res ∧ ∃ b₁, b.txTeardown = .ok b₁ ∧ b' = { b₁ with dev := b₁.dev.markReleased } := by
  unfold releaseBlock at h
  split at h
  · cases h
  next b₁ hb => cases h; exact ⟨rfl, b₁, hb, rfl⟩

/-- Everything a teardown that answers can have done (R97): nothing, where it has been done before; the release alone; or clear,
flush, release. -/
theorem teardownBlock_cases {p : Params} {b b' : Block} {st : Status} (h : teardownBlock p b = .ok (st, b')) :
    (b.dev.rel = true ∧ st = .ok ∧ b' = b) ∨
    (b.dev.rel = false ∧ b.dev.cot = false ∧ releaseBlock .ok b = .ok (st, b')) ∨
    (b.dev.rel = false ∧ b.dev.cot = true ∧ ∃ res b₁,
      flushBlock p b.clearPixels = .ok (res, b₁) ∧ releaseBlock res b₁ = .ok (st, b')) := by
  unfold teardownBlock at h
  split at h
  next hr => cases h; exact .inl ⟨hr, rfl, rfl⟩
  next hr =>
    split at h
    next hc =>
      split at h
      · cases h
      next res b₁ hf => exact .inr (.inr ⟨by simpa using hr, hc, res, b₁, hf, h⟩)
    next hc => exact .inr (.inl ⟨by simpa using hr, by simpa using hc, h⟩)

/-- A construction makes a fresh block on a held transport, or leaves none (R115, R116). -/
theorem State.constructed_cases (s : State) (cfg : ConstructCfg) :
    (∃ k tx, tx.usable = true ∧ tx.Agrees History.empty ∧ tx.config = cfg.transport ∧
      s.constructed cfg = s.created k cfg.pixelCount tx) ∨
    ∃ k ops, s.constructed cfg = s.notCreated k ops := by
  unfold State.constructed
  split
  next h =>
    split
    · exact .inr ⟨_, _, rfl⟩
    · exact .inr ⟨_, _, rfl⟩
    · refine .inl ⟨_, _, ?_, ?_, ?_, rfl⟩
      · rfl
      · exact Or.inl ⟨rfl, rfl, rfl⟩
      · exact h.symm
  next h =>
    split
    · exact .inr ⟨_, _, rfl⟩
    · refine .inl ⟨_, _, ?_, ?_, ?_, rfl⟩
      · rfl
      · exact And.intro rfl rfl
      · exact h.symm

theorem fetchedOf_run {e : Except Reject Instr} {i : Instr} (h : fetchedOf e = .run i) :
    e = .ok i ∧ i.wellFormed = true := by
  unfold fetchedOf at h
  split at h
  · cases h
  · split at h
    next hw => cases h; exact ⟨rfl, hw⟩
    next => cases h

/-- Only a well-formed operation is run. -/
theorem State.fetch_wellFormed {s : State} {i : Instr} (h : s.fetch = .run i) : i.wellFormed = true := by
  unfold State.fetch at h
  split at h
  · cases h
  · split at h
    · cases h
    · split at h
      · exact (fetchedOf_run h).2
      · cases h
  · split at h
    · cases h
    · exact (fetchedOf_run h).2
  · exact (fetchedOf_run h).2

/-- Everything a step that answers can have done: it waited, or it ran one well-formed operation on the state with its request
taken. -/
theorem step_cases {s t : State} (h : step s = .next t) :
    t = s.wait ∨ ∃ i, s.fetch = .run i ∧ i.wellFormed = true ∧ exec i s.take = .next t := by
  unfold step at h
  split at h
  · cases h; exact .inl rfl
  · cases h
  next i hi => exact .inr ⟨i, hi, State.fetch_wellFormed hi, h⟩

end Sys2Proof.Machine
end

