-- ==== Sys2Proof/Tests/Slice0.lean ====
section
/-!
SUPPORT. Tests of the model: expected values come from spec/95_test_vectors.md and the rules' own examples (each named). The
witnesses at the end meet the hypotheses of the statements of Sys2Proof/Certificates/Slice0/Obligations.lean, all together.
-/

namespace Sys2Proof.Tests

open Sys2Proof Sys2Proof.Machine

/-! ### Helpers -/

/-- An outcome is a next state with a property. -/
def answers (o : Host.Outcome State Fault Refusal) (p : State → Bool) : Bool :=
  match o with
  | .next t => p t
  | .fault _ => false
  | .refused _ => false

/-- An outcome is a refusal by a name. -/
def refusedBy (o : Host.Outcome State Fault Refusal) (r : Refusal) : Bool :=
  match o with
  | .next _ => false
  | .fault _ => false
  | .refused r' => decide (r' = r)

/-- An outcome is a fault by a name. -/
def faultsBy (o : Host.Outcome State Fault Refusal) (f : Fault) : Bool :=
  match o with
  | .next _ => false
  | .fault f' => decide (f' = f)
  | .refused _ => false

/-- The buffer after an operation. -/
def pixAfter (o : Host.Outcome State Fault Refusal) (ps : List Pixel) : Bool :=
  answers o fun t => t.dev.any fun d => decide (d.pix = ps)

/-- An SPI port with the reference configuration (R7). -/
def refSpi : SpiPort := { bus := 0, cs := 0, hz := 1000000, mode := 0, isOpen := true }

/-- The block of V7 and V8: `N = 1`, SPI, `PIX[0] = E7 03 02 01`. -/
def spiDev (cot rel : Bool) : Device :=
  { Device.fresh 1 (.spi refSpi) with pix := [⟨0xE7, 0x03, 0x02, 0x01⟩], cot := cot, rel := rel }

/-- A state with a block and the environment's answers. -/
def onBlock (d : Device) (script : List WriteOutcome) : State :=
  { State.reset with dev := some d, env := { writeScript := script, acquireScript := [], writeTick := 0, acquireTick := 0 } }

/-- The block of V7 under a script. -/
def spiState (script : List WriteOutcome) : State := onBlock (spiDev true false) script

/-- The block of V5: `N = 3`, fresh, GPIO. -/
def gpioThree : State :=
  onBlock (Device.fresh 3 (.gpio { pinData := 23, pinClk := 24, data := .held false, clk := .held false })) []

/-- No block. -/
def noBlock : State := { State.reset with dev := none }

/-- The environment answers acquisitions from a script. -/
def acquiring (script : List AcquireOutcome) : State :=
  { State.reset with env := { writeScript := [], acquireScript := script, writeTick := 0, acquireTick := 0 } }

/-! ### WellFormed refuses -/

/-- N above N_MAX (R7, U14). -/
theorem test_illFormed_pixelCount :
    (Instr.construct ⟨65536, .gpioBitbang 23 24⟩).wellFormed = false ∧
    (Instr.construct ⟨65535, .gpioBitbang 23 24⟩).wellFormed = true := by decide

/-- SPI mode above 3 (R7). -/
theorem test_illFormed_spiMode :
    (Instr.construct ⟨8, .hardwareSpi 0 0 1000000 4⟩).wellFormed = false ∧
    (Instr.construct ⟨8, .hardwareSpi 0 0 1000000 3⟩).wellFormed = true := by decide

theorem test_illFormed_isRefused :
    refusedBy (step { State.reset with host := [.call (.construct ⟨65536, .gpioBitbang 23 24⟩)] }) .illFormed = true := by
  decide

/-! ### Decoding: words written out from R53 and R54 (the examples of R83 to R98, V5) -/

theorem test_decode_setPixel : decodeCmd 0x010002AABBCC00000000 = .ok (.setPixel 2 0xAA 0xBB 0xCC) := by decide
/-- V5: junk in `br` is ignored. -/
theorem test_decode_setPixel_junk : decodeCmd 0x010002AABBCCDEADBEEF = .ok (.setPixel 2 0xAA 0xBB 0xCC) := by decide
theorem test_decode_setPixelRgbb :
    decodeCmd 0x020080AABBCC3F800000 = .ok (.setPixelRgbb 128 0xAA 0xBB 0xCC 0x3F800000) := by decide
theorem test_decode_setPixelBrightness :
    decodeCmd 0x03FFFF0000003F800000 = .ok (.setPixelBrightness 65535 0x3F800000) := by decide
theorem test_decode_setAllPixels : decodeCmd 0x040000FF000000000000 = .ok (.setAllPixels 255 0 0) := by decide
theorem test_decode_setAllPixelsRgbb :
    decodeCmd 0x0500000102033E800000 = .ok (.setAllPixelsRgbb 1 2 3 0x3E800000) := by decide
theorem test_decode_setAllPixelsBrightness :
    decodeCmd 0x0600000000003DCCCCCD = .ok (.setAllPixelsBrightness 0x3DCCCCCD) := by decide
theorem test_decode_clear : decodeCmd 0x07000000000000000000 = .ok .clear := by decide
theorem test_decode_flush : decodeCmd 0x08000000000000000000 = .ok .flush := by decide
theorem test_decode_setClearOnTeardown_true : decodeCmd 0x09000001000000000000 = .ok (.setClearOnTeardown true) := by decide
/-- V5: only bit 48 is read. -/
theorem test_decode_setClearOnTeardown_even : decodeCmd 0x090000FE000000000000 = .ok (.setClearOnTeardown false) := by decide
theorem test_decode_teardown : decodeCmd 0x0A000000000000000000 = .ok .teardown := by decide
theorem test_decode_drop : decodeCmd 0x0B000000000000000000 = .ok .drop := by decide
theorem test_decode_reserved :
    decodeCmd 0x00000000000000000000 = .error (.reservedCode 0x00) ∧
    decodeCmd 0x0C000000000000000000 = .error (.reservedCode 0x0C) ∧
    decodeCmd 0xFF000000000000000000 = .error (.reservedCode 0xFF) := by decide

/-- Frames (R48 to R50; `FF CC BB AA` is S5). -/
theorem test_decode_frames :
    decodeFrame 5 [0, 0, 0, 0] = .ok .startFrame ∧
    decodeFrame 5 [0xFF, 0xCC, 0xBB, 0xAA] = .ok (.ledFrame 31 0xCC 0xBB 0xAA) ∧
    decodeFrame 5 [0, 0, 0, 0, 0] = .ok .endFrame ∧
    decodeFrame 5 [0x1F, 0, 0, 0] = .error .notAFrame ∧
    decodeFrame 5 [0, 0, 0, 0, 0, 0] = .error .notAFrame := by decide

/-- The table's numbering: an LED frame's first byte sent is bits 31 to 24. -/
theorem test_decodeTableWord :
    decodeTableWord 32 0xE3000102 = some (.ledFrame 3 0x00 0x01 0x02) ∧
    decodeTableWord 80 0x0300070000003F000000 = some (.setPixelBrightness 7 0x3F000000) ∧
    decodeTableWord 40 0 = some .endFrame := by decide

/-- The encoder writes the example words of R83, R85, R90 back. -/
theorem test_encode :
    encodeCmd (.setPixel 2 0xAA 0xBB 0xCC) = some 0x010002AABBCC00000000 ∧
    encodeCmd (.setPixelBrightness 7 0x3F000000) = some 0x0300070000003F000000 ∧
    encodeCmd (.setClearOnTeardown true) = some 0x09000001000000000000 := by decide

/-! ### Brightness: V1 and V2 -/

/-- V1, first half. -/
theorem test_enc5_low :
    ([(0x00000000, 0), (0x80000000, 0), (0x00000001, 0), (0x3CF5C28F, 0), (0x3D042107, 0), (0x3D042108, 1),
      (0x3D23D70A, 1), (0x3DCCCCCD, 3), (0x3E4CCCCD, 6), (0x3E6739CD, 6), (0x3E6739CE, 7), (0x3E6B851F, 7),
      (0x3E800000, 7), (0x3E99999A, 9), (0x3F000000, 15), (0x3F042107, 15), (0x3F042108, 16)] : List (F32 × Field)).all
      (fun v => enc5 v.1 == v.2 && enc5ByThresholds v.1 == v.2) = true := by decide

/-- V1, second half: above the middle, clamping, infinities, NaNs. -/
theorem test_enc5_high :
    ([(0x3F0C6318, 16), (0x3F0C6319, 17), (0x3F19999A, 18), (0x3F400000, 23), (0x3F666666, 27), (0x3F77BDEE, 29),
      (0x3F77BDEF, 30), (0x3F7D70A4, 30), (0x3F7FFFFF, 30), (0x3F800000, 31), (0x3F800001, 31), (0x40000000, 31),
      (0x7F7FFFFF, 31), (0x7F800000, 31), (0xBF800000, 0), (0xFF800000, 0), (0x7FC00000, 0), (0x7F800001, 0),
      (0xFFC00000, 0)] : List (F32 × Field)).all
      (fun v => enc5 v.1 == v.2 && enc5ByThresholds v.1 == v.2) = true := by decide

/-- V2. -/
theorem test_dec5 :
    ([(0, 0x00000000), (1, 0x3D042108), (7, 0x3E6739CE), (15, 0x3EF7BDEF), (16, 0x3F042108), (30, 0x3F77BDEF),
      (31, 0x3F800000)] : List (Field × F32)).all (fun v => dec5 v.1 == v.2) = true := by decide

/-! ### Setters: V5, S3 -/

theorem test_setPixel :
    pixAfter (exec (.setPixel 2 0xAA 0xBB 0xCC) gpioThree)
      [⟨0xE7, 0, 0, 0⟩, ⟨0xE7, 0, 0, 0⟩, ⟨0xE7, 0xCC, 0xBB, 0xAA⟩] = true := by decide
/-- The boundary: index `N` is the first one ignored, with `STATUS = 0`. -/
theorem test_setPixel_atN :
    answers (exec (.setPixel 3 1 1 1) gpioThree) (fun t => decide (t.dev = gpioThree.dev ∧ t.status = .ok)) = true := by
  decide
theorem test_setPixelRgbb :
    pixAfter (exec (.setPixelRgbb 0 0xAA 0xBB 0xCC 0x3F800000) gpioThree)
      [⟨0xFF, 0xCC, 0xBB, 0xAA⟩, ⟨0xE7, 0, 0, 0⟩, ⟨0xE7, 0, 0, 0⟩] = true := by decide
theorem test_setPixelBrightness :
    pixAfter (exec (.setPixelBrightness 1 0xBF800000) gpioThree)
      [⟨0xE7, 0, 0, 0⟩, ⟨0xE0, 0, 0, 0⟩, ⟨0xE7, 0, 0, 0⟩] = true := by decide
theorem test_setAllPixels :
    pixAfter (exec (.setAllPixels 255 0 0) gpioThree)
      [⟨0xE7, 0, 0, 0xFF⟩, ⟨0xE7, 0, 0, 0xFF⟩, ⟨0xE7, 0, 0, 0xFF⟩] = true := by decide
theorem test_setAllPixelsRgbb :
    pixAfter (exec (.setAllPixelsRgbb 1 2 3 0x3E800000) gpioThree)
      [⟨0xE7, 3, 2, 1⟩, ⟨0xE7, 3, 2, 1⟩, ⟨0xE7, 3, 2, 1⟩] = true := by decide
theorem test_setAllPixelsBrightness :
    pixAfter (exec (.setAllPixelsBrightness 0x3DCCCCCD) gpioThree)
      [⟨0xE3, 0, 0, 0⟩, ⟨0xE3, 0, 0, 0⟩, ⟨0xE3, 0, 0, 0⟩] = true := by decide
/-- V8: the clear keeps the header. -/
theorem test_clear : pixAfter (exec .clear (spiState [])) [⟨0xE7, 0, 0, 0⟩] = true := by decide
theorem test_setClearOnTeardown :
    answers (exec (.setClearOnTeardown false) gpioThree) (fun t => t.dev.any fun d => !d.cot) = true := by decide

/-! ### Flush: V6, V7, V8 -/

/-- V7, last row: all 13 bytes. -/
theorem test_flush :
    answers (exec .flush (spiState [.ok, .ok, .ok])) (fun t => decide
      (t.hist.wire = [0, 0, 0, 0, 0xE7, 3, 2, 1, 0, 0, 0, 0, 0] ∧ t.writeCount = 3 ∧ t.status.code = 0)) = true := by
  decide
/-- V7, call 1 `Fail(1)`: the flush stops there. -/
theorem test_flush_fails :
    answers (exec .flush (spiState [.ok, .fail 1, .ok])) (fun t => decide
      (t.hist.wire = [0, 0, 0, 0, 0xE7] ∧ t.writeCount = 2 ∧ t.status.code = 1 ∧ t.dev = some (spiDev true false))) = true := by
  decide
/-- V7, call 2 `Fail(5)`: every byte is sent and the result is still an error. -/
theorem test_show_failsAtTheEnd :
    answers (exec .showFrame (spiState [.ok, .ok, .fail 5])) (fun t => decide
      (t.hist.wire.length = 13 ∧ t.writeCount = 3 ∧ t.status.code = 1)) = true := by decide
/-- V8: a flush after the teardown makes no write call. -/
theorem test_show_afterTeardown :
    answers (exec .showFrame (onBlock (spiDev true true) [.ok])) (fun t => decide
      (t.writeCount = 0 ∧ t.hist.wire = [] ∧ t.status.code = 0)) = true := by decide

/-! ### Teardown and drop: V8, P5 -/

/-- V8, third row: call 1 of the inner flush `Fail(2)`; the failure is reported and the buffer is cleared. -/
theorem test_teardown_failingFlush :
    answers (exec .teardown (spiState [.ok, .fail 2])) (fun t => decide
      (t.hist.wire = [0, 0, 0, 0, 0xE7, 0] ∧ t.status.code = 1) && t.dev.any fun d =>
        d.rel && decide (d.pix = [⟨0xE7, 0, 0, 0⟩])) = true := by decide
/-- V8, second row. -/
theorem test_teardown_flagOff :
    answers (exec .teardown (onBlock (spiDev false false) [])) (fun t => decide
      (t.hist.wire = [] ∧ t.status.code = 0 ∧ t.dev = some (spiDev false true))) = true := by decide
/-- P5 variant (b): `WIRE = 00 00`, nothing reported. -/
theorem test_drop_failingFlush :
    answers (exec .drop (spiState [.fail 2])) (fun t => decide
      (t.dev = none ∧ t.hist.wire = [0, 0] ∧ t.writeCount = 1 ∧ t.done = false)) = true := by decide
/-- V8: a `DROP` that finds `REL = 1`. -/
theorem test_drop_afterTeardown :
    answers (exec .drop (onBlock (spiDev true true) [.ok])) (fun t => decide (t.dev = none ∧ t.hist.wire = [])) = true := by
  decide

/-! ### Frames (R48 to R50) -/

theorem test_startFrame :
    answers (exec .startFrame (spiState [.ok])) (fun t => decide
      (t.hist.wire = [0, 0, 0, 0] ∧ t.ret = .result .ok ∧ t.done = false)) = true := by decide
theorem test_ledFrame :
    answers (exec (.ledFrame 31 0xCC 0xBB 0xAA) (spiState [.ok])) (fun t => decide
      (t.hist.wire = [0xFF, 0xCC, 0xBB, 0xAA])) = true := by decide
/-- `END_LEN` is 5 for `N = 1` (R40). -/
theorem test_endFrame :
    answers (exec .endFrame (spiState [.fail 3])) (fun t => decide
      (t.hist.wire = [0, 0, 0] ∧ t.ret = .result .hardware)) = true := by decide

/-! ### Pixel operations: V3 -/

theorem test_pxSetRgb :
    pixAfter (exec (.pxSetRgb 0 0xAA 0xBB 0xCC) (spiState [])) [⟨0xE7, 0xCC, 0xBB, 0xAA⟩] = true := by decide
theorem test_pxSetBrightness :
    pixAfter (exec (.pxSetBrightness 0 0x7FC00000) (spiState [])) [⟨0xE0, 3, 2, 1⟩] = true := by decide
theorem test_pxSetRgbb :
    pixAfter (exec (.pxSetRgbb 0 4 5 6 0x3F000000) (spiState [])) [⟨0xEF, 6, 5, 4⟩] = true := by decide
theorem test_pxRgb :
    answers (exec (.pxRgb 0) (spiState [])) (fun t => decide (t.ret = .rgb 1 2 3)) = true := by decide
theorem test_pxBrightness :
    answers (exec (.pxBrightness 0) (spiState [])) (fun t => decide (t.ret = .brightness 0x3E6739CE)) = true := by decide
theorem test_pxRgbb :
    answers (exec (.pxRgbb 0) (spiState [])) (fun t => decide (t.ret = .rgbb 1 2 3 0x3E6739CE)) = true := by decide
theorem test_pxClear : pixAfter (exec (.pxClear 0) (spiState [])) [⟨0xE7, 0, 0, 0⟩] = true := by decide
theorem test_pxRawBytes :
    answers (exec (.pxRawBytes 0) (spiState [])) (fun t => decide (t.ret = .bytes [0xE7, 3, 2, 1])) = true := by decide
theorem test_pxDefault :
    answers (exec .pxDefault noBlock) (fun t => decide (t.ret = .pixel ⟨0xE7, 0, 0, 0⟩)) = true := by decide

/-! ### Transport: V4 -/

/-- V4: `0xA5` on the pins. -/
theorem test_txWriteGpio :
    answers (exec (.txWriteGpio [0xA5]) gpioThree) (fun t => decide (t.hist.pinlog =
      [.data true, .clkHigh, .clkLow, .data false, .clkHigh, .clkLow, .data true, .clkHigh, .clkLow,
        .data false, .clkHigh, .clkLow, .data false, .clkHigh, .clkLow, .data true, .clkHigh, .clkLow,
        .data false, .clkHigh, .clkLow, .data true, .clkHigh, .clkLow])) = true := by decide
/-- V4: the empty write is a call (R80). -/
theorem test_txWrite_empty :
    answers (exec (.txWrite []) gpioThree) (fun t => decide
      (t.hist.pinlog = [] ∧ t.hist.wire = [] ∧ t.hist.writes = [⟨[], .ok⟩])) = true := by decide
/-- V4: `Fail(4)` sends all four bytes and is still an error. -/
theorem test_txWriteSpi :
    answers (exec (.txWriteSpi [0xE3, 0, 0, 0xFF]) (spiState [.fail 4])) (fun t => decide
      (t.hist.wire = [0xE3, 0, 0, 0xFF] ∧ t.ret = .result .hardware ∧ t.hist.pinlog = [])) = true := by decide
theorem test_txWriteSpi_onGpio : refusedBy (exec (.txWriteSpi [1]) gpioThree) .wrongVariant = true := by decide
theorem test_txTeardownGpio :
    answers (exec .txTeardownGpio gpioThree) (fun t => decide (t.hist.pinlog = [.releaseData, .releaseClk])) = true := by
  decide
theorem test_txTeardownSpi :
    answers (exec .txTeardownSpi (spiState [])) (fun t => decide
      (t.dev = (spiState []).dev ∧ t.hist = (spiState []).hist)) = true := by decide

/-! ### Construction: V9 -/

theorem test_construct :
    answers (exec (.construct ⟨8, .gpioBitbang 23 24⟩) (acquiring [.ok, .ok])) (fun t => decide
      (t.dev = State.reset.dev ∧ t.status.code = 0 ∧ t.hist = History.empty)) = true := by decide
/-- V9: the clock pin fails, the data pin is released, status 2. -/
theorem test_construct_clockFails :
    answers (exec (.construct ⟨8, .gpioBitbang 23 24⟩) (acquiring [.ok, .fail])) (fun t => decide
      (t.dev = none ∧ t.status.code = 2 ∧ t.hist.pinlog = [.releaseData])) = true := by decide

/-! ### Steps -/

/-- A step from reset runs the placed word (P1, step 1). -/
theorem test_step_command :
    answers (step (State.reset.withFetchWord 80 0x040000FF000000000000)) (fun t =>
      t.done && decide (t.host = []) && t.dev.any fun d => decide (d.pix = List.replicate 8 ⟨0xE7, 0, 0, 0xFF⟩)) = true := by
  decide
theorem test_step_reserved :
    refusedBy (step (State.reset.withFetchWord 80 0x0C000000000000000000)) (.reservedCode 0x0C) = true := by decide
theorem test_step_afterDrop :
    refusedBy (step { noBlock with host := [.command 0x08000000000000000000] }) .noBlock = true := by decide

/-! ### Witnesses: the hypotheses of the statements can be met -/

/-- The block of `spiState`. -/
theorem spi_ready (script : List WriteOutcome) : (spiState script).Ready (spiDev true false) :=
  { dev_eq := rfl, seq_idle := rfl, usable := rfl, rel_eq := rfl }

theorem spiDev_wellFormed (cot rel : Bool) : (spiDev cot rel).WellFormed where
  length_pix := rfl
  n_le := by show (1 : Nat) ≤ 65535; omega
  endLen_eq := rfl
  marked := by
    intro p hp
    rw [List.mem_singleton.mp hp]
    decide
  seq_idle := rfl

/-- The block right after reset. -/
def resetDev : Device := Device.fresh 8 (.gpio { pinData := 23, pinClk := 24, data := .held false, clk := .held false })

theorem reset_ready : State.reset.Ready resetDev := { dev_eq := rfl, seq_idle := rfl, usable := rfl, rel_eq := rfl }

theorem reset_writesOk (k : Nat) : State.reset.WritesOk resetDev k := .inl ⟨rfl, rfl⟩

theorem spi_writesOk : (spiState [.ok, .ok, .ok]).WritesOk (spiDev true false) 3 := by
  refine .inr ?_
  decide

theorem spi_failsAt : (spiState [.ok, .fail 2]).WriteFailsAt (spiDev true false) 1 2 :=
  { can_fail := rfl, before := by decide, fails := rfl }

theorem witness_DecodeOfEncodeIsTheCommand :
    encodeCmd (.setPixelRgbb 0xFFFF 0xFF 0 0xFF 0xFFFFFFFF) = some 0x02FFFFFF00FFFFFFFFFF ∧
    encodeCmd .showFrame = some 0x08000000000000000000 := by decide

theorem witness_ReservedCodesAreRefused :
    (State.reset.withFetchWord 80 0xFF000000000000000000).host = .command 0xFF000000000000000000 :: [] ∧
    State.reset.cmdReady = true ∧ cmdOp 0x00000000000000000001 = 0x00 ∧
    0x0C ≤ (cmdOp 0x0C000000000000000000).toNat ∧ 0x0C ≤ (cmdOp 0xFF000000000000000000).toNat ∧
    ¬ (cmdOp 0x0B000000000000000000 = 0x00 ∨ 0x0C ≤ (cmdOp 0x0B000000000000000000).toNat) := by decide

/-- One frame of each kind, and bytes just below the marker that a step is presented and that are no frame. -/
theorem witness_FrameDecodeOfEncodeIsTheFrame :
    (∀ i, encodeFrame resetDev.endLen i ≠ some [0xDF, 0, 0, 0]) ∧
    { State.reset with host := [.frame [0xDF, 0, 0, 0]] }.host = .frame [0xDF, 0, 0, 0] :: [] ∧
    decodeFrame 5 [0xE0, 0, 0, 0] = .ok (.ledFrame 0 0 0 0) ∧
    encodeFrame 5 .startFrame = some [0, 0, 0, 0] ∧ encodeFrame 5 (.ledFrame 0 0 0 0) = some [0xE0, 0, 0, 0] ∧
    encodeFrame 5 .endFrame = some [0, 0, 0, 0, 0] := by
  refine ⟨fun i h => ?_, by decide⟩
  have key : ∀ k : Field, hdrByte k ≠ 0xDF := by decide
  cases i <;> simp [encodeFrame, resetDev, Device.fresh, endLenOf, List.replicate] at h
  exact key _ h.1

theorem witness_LedFrameIsThePixelWord : Pixel.default.marked = true := by decide

/-- 0.5 in the interval, its ends, and an ordered pair. -/
theorem witness_BrightnessPairLaws :
    f32Key 0x00000000 = some 0 ∧ f32Key 0x3F000000 = some (2 ^ 148) ∧ f32Key 0x3F800000 = some (2 ^ 149) := by decide

theorem witness_Enc5ClampsAndMapsNanToZero :
    f32Key 0x80000000 = some 0 ∧ f32Key 0xBF800000 = some (-(2 ^ 149)) ∧ f32Key 0x3F800000 = some (2 ^ 149) ∧
    f32Key 0x7F800000 = some (2 ^ 254 * 2 ^ 23) ∧ f32Key 0x7FC00000 = none := by decide

/-- The pattern below the default's decoded brightness is another number; two headers differ in their marker only. -/
theorem witness_Dec5IsTheNearestBinary32 :
    (f32Key 0x3E6739CD).isSome = true ∧ f32Key 0x3E6739CD ≠ f32Key (dec5 7) ∧ (7 : Field) ≠ 0 ∧
    (Pixel.mk 0xE7 0 0 0).hdr.extractLsb' 0 5 = (Pixel.mk 0x07 1 1 1).hdr.extractLsb' 0 5 := by decide

/-- The last record and, for the ignored index, the first index out of range. -/
theorem witness_PixelOperations :
    (spiState []).dev = some (spiDev true false) ∧ (0 : Index).toNat < (spiDev true false).n ∧
    (spiDev true false).pix[(0 : Index).toNat]? = some ⟨0xE7, 3, 2, 1⟩ ∧
    (spiDev true false).n ≤ (1 : Index).toNat := by decide

/-- For SetPixelWritesOneColour, SetPixelRgbbWritesOneRecord, SetPixelBrightnessWritesOneHeader, BulkSettersWriteEveryRecord,
SetClearOnTeardownWritesTheFlag, InMemoryCommandsFrame and the second part of ComposedOperationsAgree. -/
theorem witness_InMemoryCommands :
    State.reset.dev = some resetDev ∧ resetDev.pix.length = resetDev.n ∧ resetDev.n ≤ Config.nMax ∧ 0 < resetDev.n ∧
    isInMemory .clear = true ∧ isInMemory (.setClearOnTeardown true) = true ∧ isInMemory .flush = false ∧ cmdOp 0x09000001000000000000 = 0x09 ∧
    ∀ p ∈ resetDev.pix, p.marked = true := by decide

/-- For BufferWritesLeaveOtherBytes: each row's operations answer, at bytes on either side of each row's bound. -/
theorem witness_BufferWritesLeaveOtherBytes :
    (∃ t, ∃ i ∈ [Instr.setPixel 1 1 2 3, .pxSetRgb 1 1 2 3, .pxClear 1], exec i gpioThree = .next t) ∧
    (∃ t, ∃ i ∈ [Instr.setPixelBrightness 1 0, .pxSetBrightness 1 0], exec i gpioThree = .next t) ∧
    (∃ t, ∃ i ∈ [Instr.setPixelRgbb 1 1 2 3 0, .pxSetRgbb 1 1 2 3 0], exec i gpioThree = .next t) ∧
    (∃ t, ∃ i ∈ [Instr.setAllPixels 1 2 3, .clear], exec i gpioThree = .next t) ∧
    (∃ t, exec (.setAllPixelsBrightness 0) gpioThree = .next t) ∧
    (3 / 4 ≠ (1 : Index).toNat ∨ 4 % 4 = 0) ∧ (8 / 4 ≠ (1 : Index).toNat ∨ 5 % 4 ≠ 0) :=
  ⟨⟨_, _, List.mem_cons_self, rfl⟩, ⟨_, _, List.mem_cons_self, rfl⟩, ⟨_, _, List.mem_cons_self, rfl⟩,
    ⟨_, _, List.mem_cons_self, rfl⟩, ⟨_, rfl⟩, by decide, by decide⟩

/-- For the statements whose hypothesis is that an operation answers: one of each kind does. -/
theorem witness_OperationsAnswer :
    (∃ t, exec .clear (spiState []) = .next t) ∧ (∃ t, exec .flush (spiState [.ok, .ok, .ok]) = .next t) ∧
    (∃ t, exec .teardown (spiState [.fail 0]) = .next t) ∧ (∃ t, exec .drop (spiState [.fail 0]) = .next t) ∧
    (∃ t, exec (.txWrite [1]) (spiState [.ok]) = .next t) ∧ (∃ t, exec (.pxRgb 0) (spiState []) = .next t) ∧
    (∃ t, exec (.construct ⟨1, .hardwareSpi 0 0 1 0⟩) (acquiring [.ok]) = .next t) ∧
    Instr.isCommand .teardown = true ∧ Instr.isCommand (.txWrite [1]) = false :=
  ⟨⟨_, rfl⟩, ⟨_, rfl⟩, ⟨_, rfl⟩, ⟨_, rfl⟩, ⟨_, rfl⟩, ⟨_, rfl⟩, ⟨_, rfl⟩, rfl, rfl⟩

/-- For the third part of ComposedOperationsAgree and for TeardownRunsThePolicy with the flag set. -/
theorem witness_TeardownWithClear :
    (spiState []).dev = some (spiDev true false) ∧ (spiDev true false).cot = true ∧ (spiDev true false).rel = false ∧
    (1 : Nat) < 3 := by decide

/-- For FlushMakesThreeWriteCalls and FlushStreamLayout, on both variants. -/
theorem witness_FlushOk :
    (State.reset.Ready resetDev ∧ State.reset.WritesOk resetDev 3) ∧
    (spiState [.ok, .ok, .ok]).Ready (spiDev true false) ∧ (spiDev true false).WellFormed ∧
    (spiState [.ok, .ok, .ok]).WritesOk (spiDev true false) 3 :=
  ⟨⟨reset_ready, reset_writesOk 3⟩, spi_ready _, spiDev_wellFormed _ _, spi_writesOk⟩

/-- For FlushStopsAtTheFirstFailure: the first, the second and the last call fail. -/
theorem witness_FlushStopsAtTheFirstFailure :
    (spiState [.fail 0]).WriteFailsAt (spiDev true false) 0 0 ∧
    ((spiState [.ok, .fail 2]).Ready (spiDev true false) ∧ (spiState [.ok, .fail 2]).WriteFailsAt (spiDev true false) 1 2) ∧
    (spiState [.ok, .ok, .fail 5]).WriteFailsAt (spiDev true false) 2 5 :=
  ⟨{ can_fail := rfl, before := by decide, fails := rfl }, ⟨spi_ready _, spi_failsAt⟩,
    { can_fail := rfl, before := by decide, fails := rfl }⟩

/-- For FlushCompletesWhateverTheAnswers and ReleaseIsUnconditional. -/
theorem witness_LiveTransport :
    (spiState []).Ready (spiDev true false) ∧ (spiState []).params.transportLive = true := ⟨spi_ready _, rfl⟩

/-- For FlushAfterTeardownTouchesNothing, TeardownRunsExactlyOnce and the first part of TeardownRunsThePolicy, under both values
of the parameter. -/
theorem witness_Released :
    (onBlock (spiDev true true) []).dev = some (spiDev true true) ∧ (spiDev true true).rel = true ∧
    (onBlock (spiDev true true) []).params.postTeardownFlush = .noopOk ∧
    (Params.mk .fail false true).postTeardownFlush = .fail := by decide

/-- For SequencerSendsTheFlushFrame: with pixels and without. -/
theorem witness_SequencerSendsTheFlushFrame :
    (State.reset.Ready resetDev ∧ resetDev.WellFormed ∧ State.reset.WritesOk resetDev 3) ∧
    ∃ d : Device, d.n = 0 ∧ (onBlock d [.ok, .ok, .ok]).Ready d ∧ d.WellFormed ∧ (onBlock d [.ok, .ok, .ok]).WritesOk d 3 :=
  ⟨⟨reset_ready, Device.fresh_wellFormed (by decide) _, reset_writesOk 3⟩,
    ⟨Device.fresh 0 (.spi refSpi), rfl, { dev_eq := rfl, seq_idle := rfl, usable := rfl, rel_eq := rfl }, Device.fresh_wellFormed (by decide) _, .inr (by decide)⟩⟩

theorem witness_FlushIsItsFramesInOrder :
    State.reset.Ready resetDev ∧ resetDev.WellFormed ∧ State.reset.WritesOk resetDev (resetDev.n + 3) :=
  ⟨reset_ready, Device.fresh_wellFormed (by decide) _, reset_writesOk _⟩

/-- For FramesAreOneWriteCall, TxWriteSendsWhatTheAnswerSays and SpiWriteForwardsTheBuffer: an `Ok` and a failure. -/
theorem witness_OneCall :
    ((spiState [.ok]).Ready (spiDev true false) ∧ (spiState [.ok]).WritesOk (spiDev true false) 1) ∧
    ((spiState [.fail 3]).Ready (spiDev true false) ∧ (spiState [.fail 3]).WriteFailsAt (spiDev true false) 0 3) ∧
    (spiDev true false).tx = .spi refSpi :=
  ⟨⟨spi_ready _, .inr (by decide)⟩, ⟨spi_ready _, { can_fail := rfl, before := by decide, fails := rfl }⟩, rfl⟩

/-- The reset block where GPIO writes can fail and the next one does, with `j` bytes sent. -/
def gpioFailing (j : Nat) : State := { onBlock resetDev [.fail j] with params := ⟨.noopOk, true, true⟩ }

/-- For GpioWriteBitBangs: an `Ok`, and failures with nothing sent and with a byte sent. -/
theorem witness_GpioWriteBitBangs :
    (State.reset.Holds resetDev ∧ (∃ g, resetDev.tx = .gpio g) ∧ State.reset.WritesOk resetDev 1) ∧
    ∀ j, (gpioFailing j).Holds resetDev ∧ (gpioFailing j).WriteFailsAt resetDev 0 j :=
  ⟨⟨reset_ready.toHolds, ⟨_, rfl⟩, reset_writesOk 1⟩, fun _ =>
    ⟨{ dev_eq := rfl, seq_idle := rfl, usable := rfl }, { can_fail := rfl, before := fun _ h => absurd h (Nat.not_lt_zero _), fails := rfl }⟩⟩

/-- R77, R78: a GPIO write of two bytes that fails after the first logs the first byte's 24 pin operations. -/
theorem test_txWriteGpio_fails :
    answers (exec (.txWriteGpio [0xE3, 0x00]) (gpioFailing 1)) (fun t =>
      decide (t.hist.pinlog.length = 24 ∧ t.hist.wire = [0xE3] ∧ t.ret = .result .hardware)) = true := by decide

theorem witness_EveryFailureLengthIsAdmitted :
    (spiState []).Holds (spiDev true false) ∧ (spiDev true false).tx.writeCannotFail (spiState []).params = false ∧
    2 ≤ ([1, 2] : List Byte).length := ⟨(spi_ready _).toHolds, rfl, by decide⟩

/-- For TxTeardownReleasesThePins and TransportStopsByName: both variants, and released handles. -/
theorem witness_TransportVariants :
    (State.reset.Holds resetDev ∧ ∃ g, resetDev.tx = .gpio g) ∧
    ((spiState []).Holds (spiDev true false) ∧ (spiDev true false).tx = .spi refSpi) ∧
    (Transport.gpio { pinData := 23, pinClk := 24, data := .released, clk := .released }).usable = false :=
  ⟨⟨reset_ready.toHolds, ⟨_, rfl⟩⟩, ⟨(spi_ready _).toHolds, rfl⟩, rfl⟩

/-- For BlockedWriteIsStuck: `TRANSPORT_LIVE` not assumed, and the next call blocks. -/
theorem witness_BlockedWriteIsStuck :
    ({ spiState [.blocked] with params := ⟨.noopOk, false, false⟩ } : State).Ready (spiDev true false) ∧
    (spiState [.blocked]).env.writeScript[(spiState [.blocked]).env.writeTick]? = some .blocked :=
  ⟨{ dev_eq := rfl, seq_idle := rfl, usable := rfl, rel_eq := rfl }, rfl⟩

/-- The stuck step itself. -/
theorem test_blockedWrite :
    faultsBy (exec .flush { spiState [.blocked] with params := ⟨.noopOk, false, false⟩ }) .writeBlocked = true := by decide

/-- For TeardownRunsThePolicy with the flag clear. -/
theorem witness_TeardownFlagOff :
    (onBlock (spiDev false false) []).Ready (spiDev false false) ∧ (spiDev false false).cot = false :=
  ⟨{ dev_eq := rfl, seq_idle := rfl, usable := rfl, rel_eq := rfl }, rfl⟩

/-- For ConstructMakesAFreshBlock, ResetIsTheDefaultConstruction and FailedConstructionLeavesNoBlock. -/
theorem witness_Acquisitions :
    ((acquiring [.ok, .ok]).env.acquireScript[(acquiring [.ok, .ok]).env.acquireTick]? = some .ok ∧
      (acquiring [.ok, .ok]).env.acquireScript[(acquiring [.ok, .ok]).env.acquireTick + 1]? = some .ok) ∧
    (acquiring [.fail]).env.acquireScript[(acquiring [.fail]).env.acquireTick]? = some .fail ∧
    (acquiring [.ok, .fail]).env.acquireScript[(acquiring [.ok, .fail]).env.acquireTick + 1]? = some .fail := by decide

/-- For EveryStepKeepsTheInvariant: the block of V7 meets the invariant and steps. -/
theorem witness_EveryStepKeepsTheInvariant :
    (onBlock (spiDev true false) []).Inv ∧
    ∃ t, step { onBlock (spiDev true false) [] with host := [.command 0x07000000000000000000] } = .next t := by
  refine ⟨⟨⟨rfl, by intro r hr; cases hr⟩, ?_⟩, ⟨_, rfl⟩⟩
  intro d hd
  cases hd
  exact ⟨spiDev_wellFormed _ _, ⟨rfl, rfl⟩, by decide⟩

/-- For NoBlockNoOperation. -/
theorem witness_NoBlockNoOperation :
    noBlock.dev = none ∧ (∀ cfg, Instr.flush ≠ .construct cfg) ∧ Instr.flush ≠ .pxDefault := by
  refine ⟨rfl, ?_, by decide⟩
  intro cfg h
  cases h

/-- For StepRunsTheDecodedOperation and PlacedWordIsRunNext: a command word, a frame, a call. -/
theorem witness_StepRunsTheDecodedOperation :
    (State.reset.withFetchWord 80 0x07000000000000000000).host = .command 0x07000000000000000000 :: [] ∧
    State.reset.cmdReady = true ∧ decodeCmd 0x07000000000000000000 = .ok .clear ∧ Instr.clear.wellFormed = true ∧
    decodeFrame resetDev.endLen [0, 0, 0, 0, 0] = .ok .endFrame ∧ resetDev.endLen = tableEndLen ∧
    decodeTableWord 32 0xE0000000 = some (.ledFrame 0 0 0 0) ∧ State.reset.host = [] := by decide

/-- For ConfigurationIsFixed, FlagsAreWrittenByTheirCommandsOnly and InternalOperationsWriteNoFlag: a live block before and after,
with `REL = 0` and with `REL = 1`. -/
theorem witness_LiveBlockBeforeAndAfter :
    (∃ t d', exec .flush (spiState [.fail 1]) = .next t ∧ (spiState [.fail 1]).dev = some (spiDev true false) ∧
      t.dev = some d' ∧ (∀ cfg, Instr.flush ≠ .construct cfg) ∧ (∀ flag, Instr.flush ≠ .setClearOnTeardown flag)) ∧
    (∃ t d', exec .clear (onBlock (spiDev true true) []) = .next t ∧ t.dev = some d' ∧ (spiDev true true).rel = true) ∧
    ∃ t d', exec (.txWrite [7]) (spiState [.fail 1]) = .next t ∧ t.dev = some d' ∧
      Instr.isCommand (.txWrite [7]) = false ∧ ∀ cfg, Instr.txWrite [7] ≠ .construct cfg := by
  refine ⟨⟨_, _, rfl, rfl, rfl, ?_, ?_⟩, ⟨_, _, rfl, rfl, rfl⟩, ⟨_, _, rfl, rfl, rfl, ?_⟩⟩ <;> intro x h <;> cases h

/-- For TransportStopsByName, its last part: a block with released pins and `REL = 0`, with the flag set and clear, and an SPI block
whose channel is not open. -/
theorem witness_ReleasedPins :
    let d := { resetDev with tx := .gpio { pinData := 23, pinClk := 24, data := .released, clk := .released } }
    let e := { d with cot := false }
    let f := { spiDev true false with tx := .spi { refSpi with isOpen := false } }
    ((onBlock d []).dev = some d ∧ d.tx.usable = false ∧ d.rel = false ∧ d.cot = true) ∧
    ((onBlock e []).dev = some e ∧ e.tx.usable = false ∧ e.rel = false ∧ e.cot = false) ∧
    (onBlock f []).dev = some f ∧ f.tx.usable = false ∧ f.rel = false ∧ f.cot = true := by decide

/-- Log 11: a teardown of pins that are already released. -/
theorem test_teardown_releasedPins :
    faultsBy (exec .teardown (onBlock { resetDev with
      cot := false, tx := .gpio { pinData := 23, pinClk := 24, data := .released, clk := .released } } []))
      .handleReleased = true := by decide

/-- For the last part of NoBlockNoOperation and for the frame and call parts of StepRunsTheDecodedOperation. -/
theorem witness_OtherRequests :
    { noBlock with host := [.command 0] }.host = .command 0 :: [] ∧ { noBlock with host := [.command 0] }.dev = none ∧
    (State.reset.withFetchWord 40 0).host = .frame [0, 0, 0, 0, 0] :: [] ∧
    (State.reset.withFetchWord 40 0).dev = some resetDev ∧
    { State.reset with host := [.call .pxDefault] }.host = .call .pxDefault :: [] ∧ Instr.pxDefault.wellFormed = true ∧
    { State.reset with host := [.call (.construct ⟨8, .hardwareSpi 0 0 1 4⟩)] }.host =
      .call (.construct ⟨8, .hardwareSpi 0 0 1 4⟩) :: [] ∧
    (Instr.construct ⟨8, .hardwareSpi 0 0 1 4⟩).wellFormed = false := by
  decide

end Sys2Proof.Tests
end

section
/-!
SUPPORT. What the fetch answers for each kind of request, and what a step does with each answer.
-/

namespace Sys2Proof.Machine

@[simp] theorem fetchedOf_ok_of_wellFormed {i : Instr} (h : i.wellFormed = true) : fetchedOf (.ok i) = .run i :=
  if_pos h

@[simp] theorem fetchedOf_ok_of_not_wellFormed {i : Instr} (h : i.wellFormed = false) :
    fetchedOf (.ok i) = .reject .illFormed := by
  simp [fetchedOf, h]

/-- Only a block can be ready (R52, R116). -/
theorem State.exists_dev_of_cmdReady {s : State} (h : s.cmdReady = true) : ∃ d, s.dev = some d := by
  cases hd : s.dev with
  | none => simp [State.cmdReady, hd] at h
  | some d => exact ⟨d, rfl⟩

theorem State.fetch_nil {s : State} (h : s.host = []) : s.fetch = .idle := by
  simp [State.fetch, h]

theorem State.fetch_command {s : State} {w : CmdWord} {rest : List Request} (h : s.host = .command w :: rest)
    (hready : s.cmdReady = true) : s.fetch = fetchedOf (decodeCmd w) := by
  obtain ⟨d, hd⟩ := State.exists_dev_of_cmdReady hready
  simp [State.fetch, h, hd, hready]

theorem State.fetch_frame {s : State} {bytes : List Byte} {rest : List Request} {d : Device}
    (h : s.host = .frame bytes :: rest) (hd : s.dev = some d) : s.fetch = fetchedOf (decodeFrame d.endLen bytes) := by
  simp [State.fetch, h, hd]

theorem State.fetch_call {s : State} {i : Instr} {rest : List Request} (h : s.host = .call i :: rest) :
    s.fetch = fetchedOf (.ok i) := by
  simp [State.fetch, h]

theorem State.take_eq_of_host {s : State} {r : Request} {rest : List Request} (h : s.host = r :: rest) :
    s.take = { s with host := rest, done := false } := by
  simp [State.take, h]

theorem step_of_fetch_idle {s : State} (h : s.fetch = .idle) : step s = .next s.wait := by
  simp [step, h]

theorem step_of_fetch_reject {s : State} {r : Refusal} (h : s.fetch = .reject r) : step s = .refused r := by
  simp [step, h]

theorem step_of_fetch_run {s : State} {i : Instr} (h : s.fetch = .run i) : step s = exec i s.take := by
  simp [step, h]

/-- A request that is fetched as a decoder's well-formed operation runs it on the state with the request taken (R11). -/
theorem step_of_host_decoded {s : State} {r : Request} {rest : List Request} {e : Except Reject Instr} {i : Instr}
    (hhost : s.host = r :: rest) (hfetch : s.fetch = fetchedOf e) (he : e = .ok i) (hwf : i.wellFormed = true) :
    step s = exec i { s with host := rest, done := false } := by
  have hrun : s.fetch = .run i := by rw [hfetch, he, fetchedOf_ok_of_wellFormed hwf]
  rw [step_of_fetch_run hrun, State.take_eq_of_host hhost]

end Sys2Proof.Machine
end

section
/-!
SUPPORT. Which operations are not well formed: the constructions outside the limits of R7, and nothing else.
-/

namespace Sys2Proof

theorem TransportChoice.wellFormed_eq_false_iff (tx : TransportChoice) :
    tx.wellFormed = false ↔ ∃ bus cs hz mode, tx = .hardwareSpi bus cs hz mode ∧ 3 < mode := by
  cases tx <;> simp [TransportChoice.wellFormed]

theorem ConstructCfg.wellFormed_eq_false_iff (cfg : ConstructCfg) :
    cfg.wellFormed = false ↔ 65535 < cfg.pixelCount ∨ cfg.transport.wellFormed = false := by
  rw [ConstructCfg.wellFormed, Config.nMax, Bool.and_eq_false_iff, decide_eq_false_iff_not, Nat.not_le]

/-- The types bound the operands of every operation but a construction (R62, R64). -/
theorem Instr.wellFormed_eq_false_iff (i : Instr) :
    i.wellFormed = false ↔ ∃ cfg, i = .construct cfg ∧ cfg.wellFormed = false := by
  cases i <;> simp [Instr.wellFormed]

end Sys2Proof
end

section
/-!
PROOFS. The statement of 00_scope.md: a step runs the operation the next request decodes to.
-/

namespace Sys2Proof.Machine

/-- Settles O59, by the fetch of each kind of request and the criterion for an operation that is not well formed. -/
theorem stepRunsTheDecodedOperation : Obligations.StepRunsTheDecodedOperation := by
  refine ⟨fun s i rest hwf => ⟨?command, ?frame, ?call⟩, ?idle, ?illFormed, ?criterion⟩
  case command =>
    intro w hhost hready hdec
    exact step_of_host_decoded hhost (State.fetch_command hhost hready) hdec hwf
  case frame =>
    intro bytes d hhost hd hdec
    exact step_of_host_decoded hhost (State.fetch_frame hhost hd) hdec hwf
  case call =>
    intro hhost
    exact step_of_host_decoded hhost (State.fetch_call hhost) rfl hwf
  case idle =>
    intro s hhost
    exact step_of_fetch_idle (State.fetch_nil hhost)
  case illFormed =>
    intro s i rest hwf hhost
    exact step_of_fetch_reject ((State.fetch_call hhost).trans (fetchedOf_ok_of_not_wellFormed hwf))
  case criterion =>
    intro i
    rw [Instr.wellFormed_eq_false_iff]
    constructor
    · rintro ⟨⟨n, tx⟩, rfl, hcfg⟩
      rw [ConstructCfg.wellFormed_eq_false_iff, TransportChoice.wellFormed_eq_false_iff] at hcfg
      exact ⟨n, tx, rfl, hcfg⟩
    · rintro ⟨n, tx, rfl, hlimit⟩
      refine ⟨_, rfl, ?_⟩
      rwa [ConstructCfg.wellFormed_eq_false_iff, TransportChoice.wellFormed_eq_false_iff]

end Sys2Proof.Machine
end

section
/-!
SUPPORT. What an operation of the live block can do to the block: `Block.Evolves`, one relation that holds everything no such
operation takes back (10_state.md R15, R16, R18 to R25), and that every part of the transport and of a teardown meets it.
-/

namespace Sys2Proof.Machine

/-- The part of the machine's invariant that speaks of a block and its history. -/
structure Block.Inv (b : Block) : Prop where
  dev_wf : b.dev.WellFormed
  agrees : b.dev.tx.Agrees b.hist
  hist_wf : b.hist.WellFormed

/-- The second block is a later state of the first: the configuration is the same (R25), `REL` is not cleared (R20), the history has
grown (R24), the environment's scripts are the same (R26), and the invariant is kept. -/
structure Block.Evolves (b b' : Block) : Prop where
  n_eq : b'.dev.n = b.dev.n
  length_pix : b'.dev.pix.length = b.dev.pix.length
  endLen_eq : b'.dev.endLen = b.dev.endLen
  config_eq : b'.dev.tx.config = b.dev.tx.config
  rel_mono : b.dev.rel = true → b'.dev.rel = true
  writes_prefix : b.hist.writes <+: b'.hist.writes
  wire_prefix : b.hist.wire <+: b'.hist.wire
  pinlog_prefix : b.hist.pinlog <+: b'.hist.pinlog
  writeScript_eq : b'.env.writeScript = b.env.writeScript
  acquireScript_eq : b'.env.acquireScript = b.env.acquireScript
  keeps_inv : b.Inv → b'.Inv

theorem Block.Evolves.refl (b : Block) : b.Evolves b where
  n_eq := rfl
  length_pix := rfl
  endLen_eq := rfl
  config_eq := rfl
  rel_mono := id
  writes_prefix := List.prefix_rfl
  wire_prefix := List.prefix_rfl
  pinlog_prefix := List.prefix_rfl
  writeScript_eq := rfl
  acquireScript_eq := rfl
  keeps_inv := id

theorem Block.Evolves.trans {b₁ b₂ b₃ : Block} (h : b₁.Evolves b₂) (k : b₂.Evolves b₃) : b₁.Evolves b₃ where
  n_eq := k.n_eq.trans h.n_eq
  length_pix := k.length_pix.trans h.length_pix
  endLen_eq := k.endLen_eq.trans h.endLen_eq
  config_eq := k.config_eq.trans h.config_eq
  rel_mono := k.rel_mono ∘ h.rel_mono
  writes_prefix := h.writes_prefix.trans k.writes_prefix
  wire_prefix := h.wire_prefix.trans k.wire_prefix
  pinlog_prefix := h.pinlog_prefix.trans k.pinlog_prefix
  writeScript_eq := k.writeScript_eq.trans h.writeScript_eq
  acquireScript_eq := k.acquireScript_eq.trans h.acquireScript_eq
  keeps_inv := k.keeps_inv ∘ h.keeps_inv

/-! ### In-memory writes -/

/-- The second device is the first after a write to the buffer or to `COT` (R91). -/
structure Device.Wrote (d d' : Device) : Prop where
  n_eq : d'.n = d.n
  length_pix : d'.pix.length = d.pix.length
  endLen_eq : d'.endLen = d.endLen
  rel_eq : d'.rel = d.rel
  tx_eq : d'.tx = d.tx
  keeps_wf : d.WellFormed → d'.WellFormed

theorem Device.wrote_modifyPixel (d : Device) (i : Index) {f : Pixel → Pixel}
    (hf : ∀ p : Pixel, p.marked = true → (f p).marked = true) : d.Wrote (d.modifyPixel i f) where
  n_eq := d.modifyPixel_n i f
  length_pix := d.modifyPixel_length i f
  endLen_eq := d.modifyPixel_endLen i f
  rel_eq := d.modifyPixel_rel i f
  tx_eq := d.modifyPixel_tx i f
  keeps_wf := fun h => h.modifyPixel i hf

theorem Device.wrote_modifyAll (d : Device) {f : Pixel → Pixel}
    (hf : ∀ p : Pixel, p.marked = true → (f p).marked = true) : d.Wrote (d.modifyAll f) where
  n_eq := rfl
  length_pix := by simp
  endLen_eq := rfl
  rel_eq := rfl
  tx_eq := rfl
  keeps_wf := fun h => h.modifyAll hf

theorem Device.wrote_setCot (d : Device) (flag : Bool) : d.Wrote (d.setCot flag) where
  n_eq := rfl
  length_pix := rfl
  endLen_eq := rfl
  rel_eq := rfl
  tx_eq := rfl
  keeps_wf := fun ⟨length, le, endLen, marked, idle⟩ => ⟨length, le, endLen, marked, idle⟩

theorem Device.Wrote.evolves {b : Block} {d : Device} (h : b.dev.Wrote d) : b.Evolves { b with dev := d } where
  __ := Block.Evolves.refl b
  n_eq := h.n_eq
  length_pix := h.length_pix
  endLen_eq := h.endLen_eq
  config_eq := by rw [h.tx_eq]
  rel_mono := fun hr => h.rel_eq.trans hr
  keeps_inv := fun inv => ⟨h.keeps_wf inv.dev_wf, by simpa only [h.tx_eq] using inv.agrees, inv.hist_wf⟩

theorem Block.evolves_clearPixels (b : Block) : b.Evolves b.clearPixels :=
  (b.dev.wrote_modifyAll fun _ => Pixel.clear_marked).evolves

/-! ### Write calls -/

/-- The block evolves, its flags stay, and the result `st` is not a construction error (R22, R76). -/
structure Block.Sends (b : Block) (st : Status) (b' : Block) : Prop extends b.Evolves b' where
  cot_eq : b'.dev.cot = b.dev.cot
  rel_eq : b'.dev.rel = b.dev.rel
  status_ne : st ≠ .construction

/-- Calls made on held handles let the block evolve, whatever the sequencer did as long as it is idle again. -/
theorem Block.evolves_of_calls {b : Block} {q : Seq} {calls : List WriteRec} (hu : b.dev.tx.usable = true)
    (hq : b.dev.seq = Seq.idle → q = Seq.idle) (hc : ∀ r ∈ calls, r.wf = true) :
    b.Evolves
      { dev := { b.dev with seq := q, tx := b.dev.tx.after (sentOf calls) }
        hist := b.hist.after b.dev.tx calls
        env := { b.env with writeTick := b.env.writeTick + calls.length } } where
  __ := Block.Evolves.refl b
  config_eq := Transport.after_config _ _
  writes_prefix := List.prefix_append _ _
  wire_prefix := List.prefix_append _ _
  pinlog_prefix := List.prefix_append _ _
  keeps_inv := fun ⟨⟨length, le, endLen, marked, idle⟩, agrees, hist⟩ =>
    ⟨⟨length, le, endLen, marked, hq idle⟩, agrees.after hu calls, hist.after _ hc⟩

theorem Block.evolves_recordWrite {b : Block} {bytes : List Byte} {out : WriteOutcome} (hu : b.dev.tx.usable = true)
    (hout : WriteRec.wf { bytes := bytes, outcome := out } = true) : b.Evolves (b.recordWrite bytes out) := by
  have h := Block.evolves_of_calls (q := b.dev.seq) (calls := [{ bytes := bytes, outcome := out }]) hu id (by simpa using hout)
  simpa [Block.recordWrite_eq, sentOf] using h

theorem Block.txWrite_sends {p : Params} {bytes : List Byte} {b b' : Block} {st : Status}
    (h : b.txWrite p bytes = .ok (st, b')) : b.Sends st b' := by
  obtain ⟨hu, ⟨rfl, _, rfl⟩ | ⟨j, hj, rfl, _, rfl⟩⟩ := Block.txWrite_cases h
  · exact ⟨Block.evolves_recordWrite hu rfl, by rw [Block.recordWrite_eq], by rw [Block.recordWrite_eq], by decide⟩
  · exact ⟨Block.evolves_recordWrite hu (by simpa [WriteRec.wf] using hj), by rw [Block.recordWrite_eq],
      by rw [Block.recordWrite_eq], by decide⟩

/-- At least one section is sent only over held handles (log 11). -/
theorem sendSections_usable {p : Params} {sec : Phase × List Byte} {secs : List (Phase × List Byte)} {b b' : Block}
    {st : Status} (h : sendSections p (sec :: secs) b = .ok (st, b')) : b.dev.tx.usable = true := by
  by_contra hu
  rw [sendSections_released (by simpa using hu)] at h
  cases h

theorem sendSections_sends {p : Params} {sec : Phase × List Byte} {secs : List (Phase × List Byte)} {b b' : Block}
    {st : Status} (h : sendSections p (sec :: secs) b = .ok (st, b')) : b.Sends st b' := by
  have hu := sendSections_usable h
  obtain ⟨calls, rfl, hwf, hst⟩ := sendSections_cases h
  refine ⟨Block.evolves_of_calls hu (fun _ => rfl) hwf, rfl, rfl, ?_⟩
  rcases hst with ⟨rfl, _⟩ | ⟨_, _, _, rfl, _⟩ <;> decide

theorem Params.postTeardownStatus_ne_construction (p : Params) : p.postTeardownStatus ≠ .construction := by
  unfold Params.postTeardownStatus
  split <;> decide

theorem Block.sends_postTeardownStatus (p : Params) (b : Block) : b.Sends p.postTeardownStatus b :=
  ⟨.refl b, rfl, rfl, p.postTeardownStatus_ne_construction⟩

theorem flushBlock_sends {p : Params} {b b' : Block} {st : Status} (h : flushBlock p b = .ok (st, b')) :
    b.Sends st b' := by
  unfold flushBlock at h
  split at h
  · cases h; exact b.sends_postTeardownStatus p
  · exact sendSections_sends h

theorem frameBlock_sends {p : Params} {ph : Phase} {bytes : List Byte} {b b' : Block} {st : Status}
    (h : frameBlock p ph bytes b = .ok (st, b')) : b.Sends st b' := by
  unfold frameBlock at h
  split at h
  · cases h; exact b.sends_postTeardownStatus p
  · exact sendSections_sends h

/-! ### Teardowns -/

theorem Transport.tornDown_config (tx : Transport) : tx.tornDown.config = tx.config := by cases tx <;> rfl

/-- The two releases end the pin log of a transport whose handles were held (R81); the SPI variant logs none (R82). -/
theorem Transport.Agrees.tornDown {tx : Transport} {h : History} (ha : tx.Agrees h)
    (hu : ∀ g, tx = .gpio g → tx.usable = true) :
    tx.tornDown.Agrees { h with pinlog := h.pinlog ++ tx.releaseOps } := by
  cases tx with
  | spi p => simpa [Transport.Agrees, Transport.tornDown, Transport.releaseOps] using ha
  | gpio g =>
    rcases ha with ⟨_, _, log⟩ | ⟨data, _, _⟩
    · exact .inr ⟨rfl, rfl, by rw [log]; rfl⟩
    · simpa [Transport.usable, data, Handle.isHeld] using hu g rfl

theorem Block.txTeardown_evolves {b b' : Block} (h : b.txTeardown = .ok b') :
    b.Evolves b' ∧ b'.dev.cot = b.dev.cot ∧ b'.dev.rel = b.dev.rel := by
  obtain ⟨rfl, hu⟩ := Block.txTeardown_cases h
  refine ⟨?_, rfl, rfl⟩
  exact
    { Block.Evolves.refl b with
      config_eq := Transport.tornDown_config _
      pinlog_prefix := List.prefix_append _ _
      keeps_inv := fun ⟨⟨length, le, endLen, marked, idle⟩, agrees, ⟨wire, writes⟩⟩ =>
        ⟨⟨length, le, endLen, marked, idle⟩, agrees.tornDown hu, ⟨wire, writes⟩⟩ }

theorem Block.evolves_markReleased (b : Block) : b.Evolves { b with dev := b.dev.markReleased } where
  __ := Block.Evolves.refl b
  rel_mono := fun _ => rfl
  keeps_inv := fun ⟨⟨length, le, endLen, marked, idle⟩, agrees, hist⟩ =>
    ⟨⟨length, le, endLen, marked, idle⟩, agrees, hist⟩

theorem releaseBlock_evolves {res st : Status} {b b' : Block} (h : releaseBlock res b = .ok (st, b')) :
    st = res ∧ b.Evolves b' ∧ b'.dev.cot = b.dev.cot := by
  obtain ⟨hst, b₁, hb₁, rfl⟩ := releaseBlock_cases h
  obtain ⟨hev, hcot, _⟩ := Block.txTeardown_evolves hb₁
  exact ⟨hst, hev.trans b₁.evolves_markReleased, hcot⟩

theorem teardownBlock_evolves {p : Params} {b b' : Block} {st : Status} (h : teardownBlock p b = .ok (st, b')) :
    b.Evolves b' ∧ b'.dev.cot = b.dev.cot ∧ st ≠ .construction := by
  rcases teardownBlock_cases h with ⟨_, rfl, rfl⟩ | ⟨_, _, hr⟩ | ⟨_, _, res, b₁, hf, hr⟩
  · exact ⟨.refl _, rfl, by decide⟩
  · obtain ⟨rfl, hev, hcot⟩ := releaseBlock_evolves hr
    exact ⟨hev, hcot, by decide⟩
  · have sent := flushBlock_sends hf
    obtain ⟨rfl, hev, hcot⟩ := releaseBlock_evolves hr
    exact ⟨b.evolves_clearPixels.trans (sent.toEvolves.trans hev), hcot.trans sent.cot_eq, sent.status_ne⟩

end Sys2Proof.Machine
end

section
/-!
SUPPORT. Everything an operation that answers can have done: `Did`, the inversion of `exec` that the statements of
10_state.md are read off.
-/

namespace Sys2Proof.Machine

/-- The five ways an operation answers a next state. -/
inductive Did (i : Instr) (s : State) : State → Prop where
  | command {d : Device} {st : Status} {b : Block} (hcmd : i.isCommand = true) (hd : s.dev = some d)
      (evolves : Block.Evolves { dev := d, hist := s.hist, env := s.env } b) (status_ne : st ≠ .construction)
      (cot_eq : (∀ flag, i ≠ .setClearOnTeardown flag) → b.dev.cot = d.cot) (rel_eq : i ≠ .teardown → b.dev.rel = d.rel) :
      Did i s ((s.put b).complete st)
  | dropped {d : Device} {b : Block} (hi : i = .drop) (hd : s.dev = some d)
      (evolves : Block.Evolves { dev := d, hist := s.hist, env := s.env } b) :
      Did i s { s with dev := none, done := false, hist := b.hist, env := b.env }
  | acted {d : Device} {v : Ret} {b : Block} (hcmd : i.isCommand = false) (hd : s.dev = some d)
      (evolves : Block.Evolves { dev := d, hist := s.hist, env := s.env } b) (cot_eq : b.dev.cot = d.cot)
      (rel_eq : b.dev.rel = d.rel) : Did i s ((s.put b).answer v)
  | read {v : Ret} (hcmd : i.isCommand = false) : Did i s (s.answer v)
  | constructed {cfg : ConstructCfg} (hi : i = .construct cfg) : Did i s (s.constructed cfg)

variable {i : Instr} {s t : State}

theorem did_of_runSetter {f : Device → Device} (hcmd : i.isCommand = true) (hf : ∀ d : Device, d.Wrote (f d))
    (hcot : (∀ flag, i ≠ .setClearOnTeardown flag) → ∀ d, (f d).cot = d.cot) (h : s.runSetter f = .next t) :
    Did i s t := by
  obtain ⟨d, st, b, hd, hb, rfl⟩ := State.runCommand_cases h
  cases hb
  exact .command hcmd hd (hf d).evolves (by decide) (fun hi => hcot hi d) (fun _ => (hf d).rel_eq)

theorem did_of_runSetter_pixel {j : Index} {f : Pixel → Pixel} (hcmd : i.isCommand = true)
    (hf : ∀ p : Pixel, p.marked = true → (f p).marked = true) (h : s.runSetter (Device.modifyPixel · j f) = .next t) :
    Did i s t :=
  did_of_runSetter hcmd (fun d => d.wrote_modifyPixel j hf) (fun _ d => d.modifyPixel_cot j f) h

theorem did_of_runSetter_all {f : Pixel → Pixel} (hcmd : i.isCommand = true)
    (hf : ∀ p : Pixel, p.marked = true → (f p).marked = true) (h : s.runSetter (Device.modifyAll · f) = .next t) :
    Did i s t :=
  did_of_runSetter hcmd (fun d => d.wrote_modifyAll hf) (fun _ _ => rfl) h

theorem did_of_runCommand_flush {p : Params} (hcmd : i.isCommand = true) (h : s.runCommand (flushBlock p) = .next t) :
    Did i s t := by
  obtain ⟨d, st, b, hd, hb, rfl⟩ := State.runCommand_cases h
  have sent := flushBlock_sends hb
  exact .command hcmd hd sent.toEvolves sent.status_ne (fun _ => sent.cot_eq) (fun _ => sent.rel_eq)

theorem did_of_execTeardown (h : execTeardown s = .next t) : Did .teardown s t := by
  obtain ⟨d, st, b, hd, hb, rfl⟩ := State.runCommand_cases h
  obtain ⟨hev, hcot, hst⟩ := teardownBlock_evolves hb
  exact .command rfl hd hev hst (fun _ => hcot) (fun hi => absurd rfl hi)

/-- An operation of the live block that answers found one. -/
theorem State.withBlock_cases {f : Block → Host.Outcome State Fault Refusal} (h : s.withBlock f = .next t) :
    ∃ d, s.dev = some d ∧ f { dev := d, hist := s.hist, env := s.env } = .next t := by
  unfold State.withBlock at h
  split at h
  · cases h
  next d hd => exact ⟨d, hd, h⟩

theorem did_of_execDrop (h : execDrop s = .next t) : Did .drop s t := by
  obtain ⟨d, hd, h⟩ := State.withBlock_cases h
  split at h
  · cases h
  next st b hb => cases h; exact .dropped rfl hd (teardownBlock_evolves hb).1

theorem did_of_runInternal {f : Block → Except Fault (Status × Block)} (hcmd : i.isCommand = false)
    (hf : ∀ b st b', f b = .ok (st, b') → b.Sends st b') (h : s.runInternal f = .next t) : Did i s t := by
  obtain ⟨d, st, b, hd, hb, rfl⟩ := State.runInternal_cases h
  have sent := hf _ _ _ hb
  exact .acted hcmd hd sent.toEvolves sent.cot_eq sent.rel_eq

theorem did_of_runPixelOp {j : Index} {f : Pixel → Pixel} (hcmd : i.isCommand = false)
    (hf : ∀ p : Pixel, p.marked = true → (f p).marked = true) (h : s.runPixelOp (Device.modifyPixel · j f) = .next t) :
    Did i s t := by
  obtain ⟨d, hd, h⟩ := State.withBlock_cases h
  cases h
  exact .acted hcmd hd (d.wrote_modifyPixel j hf).evolves (d.modifyPixel_cot j f) (d.modifyPixel_rel j f)

theorem did_of_runGetter {j : Index} {f : Pixel → Ret} (hcmd : i.isCommand = false) (h : s.runGetter j f = .next t) :
    Did i s t := by
  obtain ⟨d, hd, h⟩ := State.withBlock_cases h
  split at h <;> cases h <;> exact .read hcmd

theorem did_of_execTxWriteGpio {bytes : List Byte} (h : execTxWriteGpio bytes s = .next t) :
    Did (.txWriteGpio bytes) s t := by
  obtain ⟨d, hd, h⟩ := State.withBlock_cases h
  split at h
  · exact did_of_runInternal rfl (fun _ _ _ => Block.txWrite_sends) h
  · cases h

theorem did_of_execTxWriteSpi {bytes : List Byte} (h : execTxWriteSpi bytes s = .next t) :
    Did (.txWriteSpi bytes) s t := by
  obtain ⟨d, hd, h⟩ := State.withBlock_cases h
  split at h
  · cases h
  · exact did_of_runInternal rfl (fun _ _ _ => Block.txWrite_sends) h

theorem did_of_execTxTeardownGpio (h : execTxTeardownGpio s = .next t) : Did .txTeardownGpio s t := by
  obtain ⟨d, hd, h⟩ := State.withBlock_cases h
  split at h
  · split at h
    · cases h
    next b hb =>
      cases h
      obtain ⟨hev, hcot, hrel⟩ := Block.txTeardown_evolves hb
      exact .acted rfl hd hev hcot hrel
  · cases h

theorem did_of_execTxTeardownSpi (h : execTxTeardownSpi s = .next t) : Did .txTeardownSpi s t := by
  obtain ⟨d, hd, h⟩ := State.withBlock_cases h
  split at h
  · cases h
  · cases h; exact .read rfl

/-- The inversion of `exec`, by the form of each operation. -/
theorem exec_did (h : exec i s = .next t) : Did i s t := by
  cases i with
  | setPixel idx r g b => exact did_of_runSetter_pixel rfl (fun _ hp => Pixel.setRgb_marked hp r g b) h
  | setPixelRgbb idx r g b br => exact did_of_runSetter_pixel rfl (fun p _ => p.setRgbb_marked r g b br) h
  | setPixelBrightness idx br => exact did_of_runSetter_pixel rfl (fun p _ => p.setBrightness_marked br) h
  | setAllPixels r g b => exact did_of_runSetter_all rfl (fun _ hp => Pixel.setRgb_marked hp r g b) h
  | setAllPixelsRgbb r g b br => exact did_of_runSetter_all rfl (fun p _ => p.setRgbb_marked r g b br) h
  | setAllPixelsBrightness br => exact did_of_runSetter_all rfl (fun p _ => p.setBrightness_marked br) h
  | clear => exact did_of_runSetter_all rfl (fun _ => Pixel.clear_marked) h
  | setClearOnTeardown flag =>
    exact did_of_runSetter rfl (fun d => d.wrote_setCot flag) (fun hi => absurd rfl (hi flag)) h
  | flush => exact did_of_runCommand_flush rfl h
  | showFrame => exact did_of_runCommand_flush rfl h
  | teardown => exact did_of_execTeardown h
  | drop => exact did_of_execDrop h
  | startFrame => exact did_of_runInternal rfl (fun _ _ _ => frameBlock_sends) h
  | ledFrame k blue green red => exact did_of_runInternal rfl (fun _ _ _ => frameBlock_sends) h
  | endFrame =>
    exact did_of_runInternal (f := fun b => frameBlock s.params .endFrame (zeros b.dev.endLen) b) rfl
      (fun _ _ _ => frameBlock_sends) h
  | pxSetRgb j r g b => exact did_of_runPixelOp rfl (fun _ hp => Pixel.setRgb_marked hp r g b) h
  | pxSetBrightness j x => exact did_of_runPixelOp rfl (fun p _ => p.setBrightness_marked x) h
  | pxSetRgbb j r g b x => exact did_of_runPixelOp rfl (fun p _ => p.setRgbb_marked r g b x) h
  | pxClear j => exact did_of_runPixelOp rfl (fun _ => Pixel.clear_marked) h
  | pxRgb j => exact did_of_runGetter rfl h
  | pxBrightness j => exact did_of_runGetter rfl h
  | pxRgbb j => exact did_of_runGetter rfl h
  | pxRawBytes j => exact did_of_runGetter rfl h
  | pxDefault => cases h; exact .read rfl
  | txWrite bytes => exact did_of_runInternal rfl (fun _ _ _ => Block.txWrite_sends) h
  | txWriteGpio bytes => exact did_of_execTxWriteGpio h
  | txWriteSpi bytes => exact did_of_execTxWriteSpi h
  | txTeardownGpio => exact did_of_execTxTeardownGpio h
  | txTeardownSpi => exact did_of_execTxTeardownSpi h
  | construct cfg => cases h; exact .constructed rfl

end Sys2Proof.Machine
end

section
/-!
PROOFS. The statements of 10_state.md about the invariant: it holds at reset and every step keeps it.
-/

namespace Sys2Proof.Machine

/-- The invariant does not read the environment, the host's requests, `done` or the returned value. -/
theorem State.Inv.congr {s t : State} (h : s.Inv) (hdev : t.dev = s.dev) (hstatus : t.status = s.status)
    (hhist : t.hist = s.hist) : t.Inv where
  hist_wf := hhist ▸ h.hist_wf
  live := fun d hd =>
    have ⟨wf, agrees, status_ne⟩ := h.live d (hdev ▸ hd)
    ⟨wf, hhist ▸ agrees, hstatus ▸ status_ne⟩

theorem State.Inv.block {s : State} (h : s.Inv) {d : Device} (hd : s.dev = some d) :
    Block.Inv { dev := d, hist := s.hist, env := s.env } :=
  ⟨(h.live d hd).dev_wf, (h.live d hd).agrees, h.hist_wf⟩

/-- A state with a block that meets the invariant, and with no construction error. -/
theorem State.inv_of_block {t : State} {b : Block} (hb : b.Inv) (hdev : t.dev = some b.dev) (hhist : t.hist = b.hist)
    (hstatus : t.status ≠ .construction) : t.Inv where
  hist_wf := hhist ▸ hb.hist_wf
  live := by
    intro d hd
    obtain rfl : b.dev = d := Option.some.inj (hdev.symm.trans hd)
    exact ⟨hb.dev_wf, hhist ▸ hb.agrees, hstatus⟩

theorem State.inv_of_no_block {t : State} (hhist : t.hist.WellFormed) (hdev : t.dev = none) : t.Inv where
  hist_wf := hhist
  live := fun d hd => by rw [hdev] at hd; cases hd

/-- A history in which no call was made is well formed, whatever its pin log. -/
theorem History.wellFormed_of_no_calls (ops : List PinOp) :
    History.WellFormed { writes := [], wire := [], pinlog := ops } :=
  ⟨rfl, by simp⟩

/-- A block that has just been constructed (R28). -/
theorem Block.inv_fresh {n : Nat} {tx : Transport} (hn : n ≤ Config.nMax) (ha : tx.Agrees History.empty) (e : Env) :
    Block.Inv { dev := Device.fresh n tx, hist := History.empty, env := e } :=
  ⟨Device.fresh_wellFormed hn tx, ha, History.wellFormed_of_no_calls []⟩

/-- Two held pins driven low agree with an empty wire (D14). -/
theorem GpioPort.agrees_of_low {g : GpioPort} (hd : g.data = .held false) (hc : g.clk = .held false) :
    (Transport.gpio g).Agrees History.empty :=
  .inl ⟨hd, hc, rfl⟩

/-- A well-formed construction has a legal pixel count (R7). -/
theorem pixelCount_le_of_wellFormed {cfg : ConstructCfg} (h : cfg.wellFormed = true) :
    cfg.pixelCount ≤ Config.nMax :=
  of_decide_eq_true (Bool.and_eq_true_iff.mp h).1

/-- A construction within the limits of R7 leaves the invariant, whatever was there before (R28, R116). -/
theorem State.constructed_inv (s : State) {cfg : ConstructCfg} (hn : cfg.pixelCount ≤ Config.nMax) :
    (s.constructed cfg).Inv := by
  rcases s.constructed_cases cfg with ⟨k, tx, _, agrees, _, heq⟩ | ⟨k, ops, heq⟩ <;> rw [heq]
  · exact State.inv_of_block (Block.inv_fresh hn agrees s.env) rfl rfl (by simp)
  · exact State.inv_of_no_block (History.wellFormed_of_no_calls ops) rfl

/-- A well-formed operation that answers keeps the invariant. -/
theorem exec_keeps_inv {s t : State} {i : Instr} (hwf : i.wellFormed = true) (hs : s.Inv) (h : exec i s = .next t) :
    t.Inv := by
  cases exec_did h with
  | command _ hd evolves status_ne _ _ => exact State.inv_of_block (evolves.keeps_inv (hs.block hd)) rfl rfl status_ne
  | dropped _ hd evolves => exact State.inv_of_no_block (evolves.keeps_inv (hs.block hd)).hist_wf rfl
  | acted _ hd evolves _ _ =>
    exact State.inv_of_block (evolves.keeps_inv (hs.block hd)) rfl rfl (hs.live _ hd).status_ne
  | read _ => exact hs.congr rfl rfl rfl
  | constructed hi =>
    subst hi
    exact State.constructed_inv s (pixelCount_le_of_wellFormed hwf)

/-- Settles O50: a step waits or runs one well-formed operation on the state with its request taken. -/
theorem everyStepKeepsTheInvariant : Obligations.EveryStepKeepsTheInvariant := by
  intro s t hs h
  rcases step_cases h with rfl | ⟨i, _, hwf, hexec⟩
  · exact hs.congr rfl rfl rfl
  · exact exec_keeps_inv hwf (hs.congr (t := s.take) rfl rfl rfl) hexec

/-- Settles O49: the reset block is a fresh one whose lines are low and whose history is empty. -/
theorem invariantHoldsAtReset : Obligations.InvariantHoldsAtReset :=
  State.inv_of_block (Block.inv_fresh (by decide) (GpioPort.agrees_of_low rfl rfl) State.reset.env) rfl rfl (by decide)

end Sys2Proof.Machine
end

section
/-!
PROOFS. The statements of 10_state.md that every operation keeps to: configuration, flags, history and surroundings.
-/

namespace Sys2Proof.Machine

section
variable {i : Instr} {s t : State} (h : Did i s t) (hi : ∀ cfg, i ≠ .construct cfg)
include h hi

/-- Only a construction makes a block (R117). -/
theorem Did.dev_none (hs : s.dev = none) : t.dev = none := by
  cases h with
  | command _ hd _ _ _ _ => rw [hs] at hd; cases hd
  | dropped _ _ _ => rfl
  | acted _ hd _ _ _ => rw [hs] at hd; cases hd
  | read _ => exact hs
  | constructed heq => exact absurd heq (hi _)

variable {d d' : Device} (hs : s.dev = some d) (ht : t.dev = some d')
include hs ht

/-- A block that is still there has evolved. -/
theorem Did.evolves :
    Block.Evolves { dev := d, hist := s.hist, env := s.env } { dev := d', hist := t.hist, env := t.env } := by
  cases h with
  | command _ hd evolves _ _ _ => cases hd.symm.trans hs; cases ht; exact evolves
  | dropped _ _ _ => cases ht
  | acted _ hd evolves _ _ => cases hd.symm.trans hs; cases ht; exact evolves
  | read _ => cases hs.symm.trans ht; exact .refl _
  | constructed heq => exact absurd heq (hi _)

/-- `COT` and `REL` of a block that is still there are as before but for the one command that writes them (R18, R20). -/
theorem Did.flags_eq :
    ((∀ flag, i ≠ .setClearOnTeardown flag) → d'.cot = d.cot) ∧ (i ≠ .teardown → d'.rel = d.rel) := by
  cases h with
  | command _ hd _ _ cot_eq rel_eq => cases hd.symm.trans hs; cases ht; exact ⟨cot_eq, rel_eq⟩
  | dropped _ _ _ => cases ht
  | acted _ hd _ cot_eq rel_eq => cases hd.symm.trans hs; cases ht; exact ⟨fun _ => cot_eq, fun _ => rel_eq⟩
  | read _ => cases hs.symm.trans ht; exact ⟨fun _ => rfl, fun _ => rfl⟩
  | constructed heq => exact absurd heq (hi _)

end

/-- Settles O51: no operation makes a block, and one that is still there has evolved. -/
theorem configurationIsFixed : Obligations.ConfigurationIsFixed := by
  intro s t i hi h
  refine ⟨(exec_did h).dev_none hi, fun d d' hs ht => ?_⟩
  have evolves := (exec_did h).evolves hi hs ht
  exact ⟨evolves.n_eq, evolves.length_pix, evolves.endLen_eq, evolves.config_eq⟩

/-- Settles O52: of the operations on a live block only the two commands write a flag, and no block clears `REL` as it evolves. -/
theorem flagsAreWrittenByTheirCommandsOnly : Obligations.FlagsAreWrittenByTheirCommandsOnly := by
  refine ⟨fun s t i d d' hi h hs ht => ?_, _, rfl, rfl, rfl⟩
  obtain ⟨cot_eq, rel_eq⟩ := (exec_did h).flags_eq hi hs ht
  exact ⟨cot_eq, rel_eq, ((exec_did h).evolves hi hs ht).rel_mono⟩

/-- An operation that is no command, other than `CONSTRUCT`, gives no result on the port (R22, R52). -/
theorem Did.port_eq {i : Instr} {s t : State} (h : Did i s t) (hcmd : i.isCommand = false)
    (hi : ∀ cfg, i ≠ .construct cfg) : t.status = s.status ∧ t.done = s.done := by
  cases h with
  | command hcmd' _ _ _ _ _ => rw [hcmd] at hcmd'; cases hcmd'
  | dropped heq _ _ => subst heq; cases hcmd
  | acted _ _ _ _ _ => exact ⟨rfl, rfl⟩
  | read _ => exact ⟨rfl, rfl⟩
  | constructed heq => exact absurd heq (hi _)

/-- Settles O54: the two operations that write `COT` and `REL` are commands. -/
theorem internalOperationsWriteNoFlag : Obligations.InternalOperationsWriteNoFlag := by
  intro s t i hcmd hi h
  obtain ⟨status_eq, done_eq⟩ := (exec_did h).port_eq hcmd hi
  refine ⟨status_eq, done_eq, fun d d' hs ht => ?_⟩
  obtain ⟨cot_eq, rel_eq⟩ := (exec_did h).flags_eq hi hs ht
  exact ⟨cot_eq (by rintro flag rfl; cases hcmd), rel_eq (by rintro rfl; cases hcmd)⟩

/-- Settles O56: a command, a drop and an internal operation on the block let it evolve, and nothing else touches the history. -/
theorem historyOnlyGrows : Obligations.HistoryOnlyGrows := by
  intro s t i hi h
  cases exec_did h with
  | command _ _ evolves _ _ _ => exact ⟨evolves.writes_prefix, evolves.wire_prefix, evolves.pinlog_prefix⟩
  | dropped _ _ evolves => exact ⟨evolves.writes_prefix, evolves.wire_prefix, evolves.pinlog_prefix⟩
  | acted _ _ evolves _ _ => exact ⟨evolves.writes_prefix, evolves.wire_prefix, evolves.pinlog_prefix⟩
  | read _ => exact ⟨List.prefix_rfl, List.prefix_rfl, List.prefix_rfl⟩
  | constructed heq => exact absurd heq (hi _)

/-- Settles O57: a block that evolves keeps the scripts, and a construction moves the acquisition counter only. -/
theorem surroundingsAreNotWritten : Obligations.SurroundingsAreNotWritten := by
  intro s t i h
  cases exec_did h with
  | command _ _ evolves _ _ _ => exact ⟨rfl, rfl, evolves.writeScript_eq, evolves.acquireScript_eq⟩
  | dropped _ _ evolves => exact ⟨rfl, rfl, evolves.writeScript_eq, evolves.acquireScript_eq⟩
  | acted _ _ evolves _ _ => exact ⟨rfl, rfl, evolves.writeScript_eq, evolves.acquireScript_eq⟩
  | read _ => exact ⟨rfl, rfl, rfl, rfl⟩
  | @constructed cfg _ =>
    rcases s.constructed_cases cfg with ⟨k, tx, _, _, _, heq⟩ | ⟨k, ops, heq⟩
    · rw [heq]; exact ⟨rfl, rfl, rfl, rfl⟩
    · rw [heq]; exact ⟨rfl, rfl, rfl, rfl⟩

end Sys2Proof.Machine
end

section
/-!
PROOFS. The state after reset (10_state.md R28).
-/

namespace Sys2Proof.Machine

/-- Settles O47: each value is the reset state's own. -/
theorem resetHoldsTheResetValues : Obligations.ResetHoldsTheResetValues :=
  ⟨_, _, rfl, rfl, rfl, rfl, rfl, rfl, rfl, rfl, rfl, rfl, rfl, rfl, rfl⟩

/-- The script's answer to an acquisition, where it has one (log 3). -/
theorem Env.acquireAnswer_of_script {e : Env} {k : Nat} {a : AcquireOutcome}
    (h : e.acquireScript[e.acquireTick + k]? = some a) : e.acquireAnswer k = a := by
  simp [Env.acquireAnswer, h]

/-- A GPIO construction whose two acquisitions succeed (R115, D14). -/
theorem State.constructed_gpio {s : State} (h₀ : s.env.acquireAnswer 0 = .ok) (h₁ : s.env.acquireAnswer 1 = .ok)
    (n pinData pinClk : Nat) :
    s.constructed ⟨n, .gpioBitbang pinData pinClk⟩ =
      s.created 2 n (.gpio { pinData := pinData, pinClk := pinClk, data := .held false, clk := .held false }) := by
  simp [State.constructed, h₀, h₁]

/-- Settles O48: the fresh device of 8 pixels is the reset block. -/
theorem resetIsTheDefaultConstruction : Obligations.ResetIsTheDefaultConstruction := by
  intro s h₀ h₁
  refine ⟨_, rfl, ?_⟩
  rw [State.constructed_gpio (Env.acquireAnswer_of_script h₀) (Env.acquireAnswer_of_script h₁)]
  exact ⟨rfl, rfl, rfl, rfl⟩

end Sys2Proof.Machine
end

section
/-!
PROOFS. The word view of a pixel record (10_state.md R17).
-/

namespace Sys2Proof.Machine

/-- Bit `k` of a record's word, by the byte it lies in (R17). -/
theorem Pixel.word_getLsbD (p : Pixel) (k : Nat) :
    p.word.getLsbD k =
      if k < 8 then p.red.getLsbD k else if k < 16 then p.green.getLsbD (k - 8)
      else if k < 24 then p.blue.getLsbD (k - 16) else p.hdr.getLsbD (k - 24) := by
  have green : k - 8 < 8 ↔ k < 16 := by omega
  have blue : k - (8 + 8) < 8 ↔ k < 24 := by omega
  simp only [Pixel.word, BitVec.getLsbD_append, Nat.sub_sub, green, blue]

theorem Pixel.bitsOf_rawBytes (p : Pixel) :
    bitsOf p.rawBytes = (List.range 32).map fun i => p.word.getLsbD (31 - i) := by
  simp only [Pixel.word_getLsbD]
  rfl

/-- Settles O6: a marked header is the marker over its own field. -/
theorem ledFrameIsThePixelWord : Obligations.LedFrameIsThePixelWord := by
  refine fun p hp => ⟨fun endLen => ?_, p.bitsOf_rawBytes⟩
  simp only [encodeFrame, hdrByte_field hp, Pixel.rawBytes]

end Sys2Proof.Machine
end

section
/-!
SUPPORT. The operations of the block written out for the path they take: the first section of a frame, a drop, and the transport
rows of the block's own variant.
-/

namespace Sys2Proof.Machine

/-- A first section whose call answers: the rest follow where it returned `Ok` (R95). -/
theorem sendSections_cons {p : Params} {ph : Phase} {bytes : List Byte} {secs : List (Phase × List Byte)} {b b₁ : Block}
    {st : Status} (h : (b.enterPhase ph).txWrite p bytes = .ok (st, b₁)) :
    sendSections p ((ph, bytes) :: secs) b = if st = .ok then sendSections p secs b₁ else .ok (st, b₁.toIdle) := by
  simp [sendSections, h]

variable {s : State} {d : Device} (hd : s.dev = some d)
include hd

theorem execDrop_eq {st : Status} {b : Block}
    (hb : teardownBlock s.params { dev := d, hist := s.hist, env := s.env } = .ok (st, b)) :
    execDrop s = .next { s with dev := none, done := false, hist := b.hist, env := b.env } := by
  simp [execDrop, State.withBlock_some hd, hb]

theorem execTxWriteGpio_eq {g : GpioPort} (hg : d.tx = .gpio g) (bytes : List Byte) :
    execTxWriteGpio bytes s = s.runInternal (Block.txWrite s.params bytes) := by
  simp [execTxWriteGpio, State.withBlock_some hd, hg]

theorem execTxWriteSpi_eq {p : SpiPort} (hp : d.tx = .spi p) (bytes : List Byte) :
    execTxWriteSpi bytes s = s.runInternal (Block.txWrite s.params bytes) := by
  simp [execTxWriteSpi, State.withBlock_some hd, hp]

theorem execTxTeardownGpio_eq {g : GpioPort} (hg : d.tx = .gpio g) {b : Block}
    (hb : Block.txTeardown { dev := d, hist := s.hist, env := s.env } = .ok b) :
    execTxTeardownGpio s = .next ((s.put b).answer .none) := by
  simp [execTxTeardownGpio, State.withBlock_some hd, hg, hb]

theorem execTxTeardownSpi_eq {p : SpiPort} (hp : d.tx = .spi p) : execTxTeardownSpi s = .next (s.answer .none) := by
  simp [execTxTeardownSpi, State.withBlock_some hd, hp]

end Sys2Proof.Machine
end

section
/-!
PROOFS. The observation history is ghost state (10_state.md R24): an operation answers the same on any other history.
-/

namespace Sys2Proof.Machine

/-- The block with another history. -/
def Block.withHist (b : Block) (h : History) : Block := { b with hist := h }

/-- The machine with another history. -/
def State.withHist (s : State) (h : History) : State := { s with hist := h }

/-! ### Block operations -/

/-- A block operation that answers the same result and the same block but for the history, whatever the history. -/
def IgnoresHistory (f : Block → Except Fault (Status × Block)) : Prop :=
  ∀ (b : Block) (st : Status) (b' : Block) (h : History), f b = .ok (st, b') →
    ∃ h' : History, f (b.withHist h) = .ok (st, b'.withHist h')

theorem Block.recordWrite_withHist (b : Block) (bytes : List Byte) (out : WriteOutcome) (h : History) :
    ∃ h' : History, (b.withHist h).recordWrite bytes out = (b.recordWrite bytes out).withHist h' := by
  simp only [Block.recordWrite_eq]
  exact ⟨_, rfl⟩

theorem Block.txWrite_ignoresHistory (p : Params) (bytes : List Byte) : IgnoresHistory (Block.txWrite p bytes) := by
  intro b st b' h hb
  obtain ⟨hu, ⟨rfl, ho, rfl⟩ | ⟨j, _, rfl, ho, rfl⟩⟩ := Block.txWrite_cases hb
  · obtain ⟨h', hrec⟩ := b.recordWrite_withHist bytes .ok h
    exact ⟨h', hrec ▸ Block.txWrite_ok (b := b.withHist h) hu ho⟩
  · obtain ⟨h', hrec⟩ := b.recordWrite_withHist bytes (.fail j) h
    exact ⟨h', hrec ▸ Block.txWrite_fail (b := b.withHist h) hu ho⟩

theorem sendSections_ignoresHistory (p : Params) (secs : List (Phase × List Byte)) :
    IgnoresHistory (sendSections p secs) := by
  induction secs with
  | nil => rintro b st b' h ⟨⟩; exact ⟨h, rfl⟩
  | cons sec secs ih =>
    obtain ⟨ph, bytes⟩ := sec
    intro b st b' h hb
    unfold sendSections at hb
    split at hb
    · cases hb
    next st₁ b₁ hw =>
      obtain ⟨h₁, hw₁⟩ := Block.txWrite_ignoresHistory p bytes _ _ _ h hw
      rw [sendSections_cons (b := b.withHist h) hw₁]
      split at hb
      next hst => rw [if_pos hst]; exact ih _ _ _ _ hb
      next hst => cases hb; rw [if_neg hst]; exact ⟨h₁, rfl⟩

theorem flushBlock_ignoresHistory (p : Params) : IgnoresHistory (flushBlock p) := by
  intro b st b' h hb
  cases hr : b.dev.rel with
  | true =>
    cases (flushBlock_released hr).symm.trans hb
    exact ⟨h, flushBlock_released hr⟩
  | false =>
    rw [flushBlock_live hr] at hb
    rw [flushBlock_live (b := b.withHist h) hr]
    exact sendSections_ignoresHistory p _ _ _ _ h hb

theorem frameBlock_ignoresHistory (p : Params) (ph : Phase) (bytes : List Byte) :
    IgnoresHistory (frameBlock p ph bytes) := by
  intro b st b' h hb
  unfold frameBlock at hb ⊢
  split at hb
  next hr => cases hb; exact ⟨h, if_pos hr⟩
  next hr =>
    obtain ⟨h', hsent⟩ := sendSections_ignoresHistory p _ _ _ _ h hb
    exact ⟨h', (if_neg hr).trans hsent⟩

theorem Block.txTeardown_withHist {b b' : Block} (hb : b.txTeardown = .ok b') (h : History) :
    ∃ h' : History, (b.withHist h).txTeardown = .ok (b'.withHist h') := by
  unfold Block.txTeardown at hb ⊢
  rw [show (b.withHist h).dev = b.dev from rfl]
  split at hb
  next g hg =>
    split at hb
    next hu =>
      cases hb
      exact ⟨{ h with pinlog := h.pinlog ++ [.releaseData, .releaseClk] }, by simp [hu, Block.drivePins, Block.withHist, hg]⟩
    next => cases hb
  next => cases hb; exact ⟨h, rfl⟩

theorem releaseBlock_ignoresHistory (res : Status) : IgnoresHistory (releaseBlock res) := by
  intro b st b' h hb
  obtain ⟨rfl, b₁, hb₁, rfl⟩ := releaseBlock_cases hb
  obtain ⟨h₁, hb₁⟩ := Block.txTeardown_withHist hb₁ h
  exact ⟨h₁, by simp only [releaseBlock, hb₁]; rfl⟩

theorem teardownBlock_ignoresHistory (p : Params) : IgnoresHistory (teardownBlock p) := by
  intro b st b' h hb
  have dev : (b.withHist h).dev = b.dev := rfl
  rcases teardownBlock_cases hb with ⟨hrel, rfl, rfl⟩ | ⟨hrel, hcot, hr⟩ | ⟨hrel, hcot, res, b₁, hf, hr⟩
  · exact ⟨h, by simp [teardownBlock, dev, hrel]⟩
  · simpa [teardownBlock, dev, hrel, hcot] using releaseBlock_ignoresHistory _ _ _ _ h hr
  · obtain ⟨h₁, hf₁⟩ := flushBlock_ignoresHistory p _ _ _ h hf
    have flush : flushBlock p (b.withHist h).clearPixels = .ok (res, b₁.withHist h₁) := hf₁
    simpa [teardownBlock, dev, hrel, hcot, flush] using releaseBlock_ignoresHistory _ _ _ _ h₁ hr

/-! ### Operations -/

section
variable {s t : State} (hist : History)

theorem runCommand_withHist {f : Block → Except Fault (Status × Block)} (hf : IgnoresHistory f)
    (h : s.runCommand f = .next t) : ∃ h', (s.withHist hist).runCommand f = .next (t.withHist h') := by
  obtain ⟨d, st, b, hd, hb, rfl⟩ := State.runCommand_cases h
  obtain ⟨h', hb'⟩ := hf _ _ _ hist hb
  exact ⟨h', State.runCommand_ok (s := s.withHist hist) hd hb'⟩

theorem runInternal_withHist {f : Block → Except Fault (Status × Block)} (hf : IgnoresHistory f)
    (h : s.runInternal f = .next t) : ∃ h', (s.withHist hist).runInternal f = .next (t.withHist h') := by
  obtain ⟨d, st, b, hd, hb, rfl⟩ := State.runInternal_cases h
  obtain ⟨h', hb'⟩ := hf _ _ _ hist hb
  exact ⟨h', State.runInternal_ok (s := s.withHist hist) hd hb'⟩

theorem runSetter_withHist {f : Device → Device} (h : s.runSetter f = .next t) :
    ∃ h', (s.withHist hist).runSetter f = .next (t.withHist h') :=
  runCommand_withHist hist (by rintro b st b' h ⟨⟩; exact ⟨h, rfl⟩) h

theorem runPixelOp_withHist {f : Device → Device} (h : s.runPixelOp f = .next t) :
    ∃ h', (s.withHist hist).runPixelOp f = .next (t.withHist h') := by
  obtain ⟨d, hd, _⟩ := State.withBlock_cases h
  cases (State.runPixelOp_eq hd f).symm.trans h
  exact ⟨hist, State.runPixelOp_eq (s := s.withHist hist) hd f⟩

theorem runGetter_withHist {j : Index} {f : Pixel → Ret} (h : s.runGetter j f = .next t) :
    ∃ h', (s.withHist hist).runGetter j f = .next (t.withHist h') := by
  obtain ⟨d, hd, _⟩ := State.withBlock_cases h
  cases (State.runGetter_eq hd j f).symm.trans h
  exact ⟨hist, State.runGetter_eq (s := s.withHist hist) hd j f⟩

theorem execDrop_withHist (h : execDrop s = .next t) : ∃ h', execDrop (s.withHist hist) = .next (t.withHist h') := by
  obtain ⟨d, hd, h⟩ := State.withBlock_cases h
  split at h
  · cases h
  next st b hb =>
    cases h
    obtain ⟨h', hb'⟩ := teardownBlock_ignoresHistory _ _ _ _ hist hb
    exact ⟨h', execDrop_eq (s := s.withHist hist) hd hb'⟩

theorem execTxWriteGpio_withHist {bytes : List Byte} (h : execTxWriteGpio bytes s = .next t) :
    ∃ h', execTxWriteGpio bytes (s.withHist hist) = .next (t.withHist h') := by
  obtain ⟨d, hd, h⟩ := State.withBlock_cases h
  split at h
  next g hg =>
    rw [execTxWriteGpio_eq (s := s.withHist hist) hd hg]
    exact runInternal_withHist hist (Block.txWrite_ignoresHistory _ _) h
  next => cases h

theorem execTxWriteSpi_withHist {bytes : List Byte} (h : execTxWriteSpi bytes s = .next t) :
    ∃ h', execTxWriteSpi bytes (s.withHist hist) = .next (t.withHist h') := by
  obtain ⟨d, hd, h⟩ := State.withBlock_cases h
  split at h
  next => cases h
  next p hp =>
    rw [execTxWriteSpi_eq (s := s.withHist hist) hd hp]
    exact runInternal_withHist hist (Block.txWrite_ignoresHistory _ _) h

theorem execTxTeardownGpio_withHist (h : execTxTeardownGpio s = .next t) :
    ∃ h', execTxTeardownGpio (s.withHist hist) = .next (t.withHist h') := by
  obtain ⟨d, hd, h⟩ := State.withBlock_cases h
  split at h
  next g hg =>
    split at h
    · cases h
    next b hb =>
      cases h
      obtain ⟨h', hb'⟩ := Block.txTeardown_withHist hb hist
      exact ⟨h', execTxTeardownGpio_eq (s := s.withHist hist) hd hg hb'⟩
  next => cases h

theorem execTxTeardownSpi_withHist (h : execTxTeardownSpi s = .next t) :
    ∃ h', execTxTeardownSpi (s.withHist hist) = .next (t.withHist h') := by
  obtain ⟨d, hd, h⟩ := State.withBlock_cases h
  split at h
  next => cases h
  next p hp => cases h; exact ⟨hist, execTxTeardownSpi_eq (s := s.withHist hist) hd hp⟩

/-- A construction reads the environment only. -/
theorem State.constructed_withHist (s : State) (cfg : ConstructCfg) :
    (s.withHist hist).constructed cfg = s.constructed cfg := rfl

end

/-- Settles O55, by the form of each operation. -/
theorem historyIsNeverRead : Obligations.HistoryIsNeverRead := by
  intro s t i hist h
  cases i with
  | setPixel idx r g b => exact runSetter_withHist (f := fun d => d.modifyPixel idx _) hist h
  | setPixelRgbb idx r g b br => exact runSetter_withHist (f := fun d => d.modifyPixel idx _) hist h
  | setPixelBrightness idx br => exact runSetter_withHist (f := fun d => d.modifyPixel idx _) hist h
  | setAllPixels r g b => exact runSetter_withHist (f := fun d => d.modifyAll _) hist h
  | setAllPixelsRgbb r g b br => exact runSetter_withHist (f := fun d => d.modifyAll _) hist h
  | setAllPixelsBrightness br => exact runSetter_withHist (f := fun d => d.modifyAll _) hist h
  | clear => exact runSetter_withHist (f := fun d => d.modifyAll _) hist h
  | setClearOnTeardown flag => exact runSetter_withHist (f := fun d => d.setCot flag) hist h
  | flush => exact runCommand_withHist hist (flushBlock_ignoresHistory _) h
  | showFrame => exact runCommand_withHist hist (flushBlock_ignoresHistory _) h
  | teardown => exact runCommand_withHist hist (teardownBlock_ignoresHistory _) h
  | drop => exact execDrop_withHist hist h
  | startFrame => exact runInternal_withHist hist (frameBlock_ignoresHistory _ _ _) h
  | ledFrame k blue green red => exact runInternal_withHist hist (frameBlock_ignoresHistory _ _ _) h
  | endFrame => exact runInternal_withHist hist (fun b => frameBlock_ignoresHistory _ _ (zeros b.dev.endLen) b) h
  | pxSetRgb j r g b => exact runPixelOp_withHist (f := fun d => d.modifyPixel j _) hist h
  | pxSetBrightness j x => exact runPixelOp_withHist (f := fun d => d.modifyPixel j _) hist h
  | pxSetRgbb j r g b x => exact runPixelOp_withHist (f := fun d => d.modifyPixel j _) hist h
  | pxClear j => exact runPixelOp_withHist (f := fun d => d.modifyPixel j _) hist h
  | pxRgb j => exact runGetter_withHist hist h
  | pxBrightness j => exact runGetter_withHist hist h
  | pxRgbb j => exact runGetter_withHist hist h
  | pxRawBytes j => exact runGetter_withHist hist h
  | pxDefault => cases h; exact ⟨hist, rfl⟩
  | txWrite bytes => exact runInternal_withHist hist (Block.txWrite_ignoresHistory _ _) h
  | txWriteGpio bytes => exact execTxWriteGpio_withHist hist h
  | txWriteSpi bytes => exact execTxWriteSpi_withHist hist h
  | txTeardownGpio => exact execTxTeardownGpio_withHist hist h
  | txTeardownSpi => exact execTxTeardownSpi_withHist hist h
  | construct cfg => cases h; exact ⟨_, congrArg Host.Outcome.next (State.constructed_withHist hist s cfg)⟩

end Sys2Proof.Machine
end

section
/-!
SUPPORT. A flush whose three write calls return `Ok` (43_flush_teardown.md R92, R93).
-/

namespace Sys2Proof.Machine

/-- `State.WritesOk` of a block: the environment answers `Ok` to the next `k` write calls. -/
def Block.WritesOk (p : Params) (b : Block) (k : Nat) : Prop :=
  (p.transportLive = true ∧ b.dev.tx.writeCannotFail p = true) ∨
    ∀ i < k, b.env.writeScript[b.env.writeTick + i]? = some .ok

theorem Block.WritesOk.nextOutcome {p : Params} {b : Block} {k : Nat} (h : b.WritesOk p (k + 1)) (bytes : List Byte) :
    b.nextOutcome p bytes = .ok := by
  rcases h with ⟨live, cannotFail⟩ | script
  · exact allowedOutcome_of_cannotFail live cannotFail _ _
  · have answer : b.env.writeAnswer bytes = .ok := by
      simp [Env.writeAnswer, show b.env.writeScript[b.env.writeTick]? = some .ok from script 0 (by omega)]
    rw [Block.nextOutcome, answer, allowedOutcome_ok]

theorem Block.WritesOk.recordWrite {p : Params} {b : Block} {k : Nat} (h : b.WritesOk p (k + 1)) (bytes : List Byte)
    (out : WriteOutcome) : (b.recordWrite bytes out).WritesOk p k := by
  rw [Block.recordWrite_eq]
  rcases h with ⟨live, cannotFail⟩ | script
  · exact .inl ⟨live, (Transport.after_writeCannotFail _ _ _).trans cannotFail⟩
  · refine .inr fun i hi => ?_
    rw [Nat.add_assoc, Nat.add_comm 1]
    exact script (i + 1) (by omega)

/-- Sections over held handles whose calls return `Ok` are all sent (R93). -/
theorem sendSections_ok {p : Params} {secs : List (Phase × List Byte)} {b : Block} (hu : b.dev.tx.usable = true)
    (hok : b.WritesOk p secs.length) : ∃ b', sendSections p secs b = .ok (.ok, b') := by
  induction secs generalizing b with
  | nil => exact ⟨_, rfl⟩
  | cons sec secs ih =>
    obtain ⟨ph, bytes⟩ := sec
    have entered : (b.enterPhase ph).WritesOk p (secs.length + 1) := hok
    rw [sendSections_cons (Block.txWrite_ok hu (entered.nextOutcome bytes)), if_pos rfl]
    exact ih (by rw [Block.recordWrite_eq]; exact Transport.after_usable hu _) (entered.recordWrite bytes .ok)

/-- A flush of a ready block whose calls return `Ok` makes its three calls and completes (R92, R93). -/
theorem exec_flush_ok {s : State} {d : Device} (hr : s.Ready d) (hok : s.WritesOk d 3) :
    exec .flush s = .next ((s.afterCalls d (okCalls d.flushCalls)).complete .ok) := by
  obtain ⟨b, hb⟩ := sendSections_ok (b := { dev := d, hist := s.hist, env := s.env }) (secs := d.flushSections) hr.usable hok
  have flush : flushBlock s.params { dev := d, hist := s.hist, env := s.env } = .ok (.ok, b) :=
    (flushBlock_live hr.rel_eq).trans hb
  refine (State.runCommand_ok hr.dev_eq flush).trans ?_
  obtain ⟨calls, rfl, _, ⟨_, rfl⟩ | ⟨_, _, _, failed, _⟩⟩ := sendSections_cases hb
  · simp only [← hr.seq_idle]
    rfl
  · cases failed

theorem sentOf_okCalls (seqs : List (List Byte)) : sentOf (okCalls seqs) = seqs.flatten := by
  simp [sentOf, okCalls, List.flatMap_map, sentBytes, List.flatMap_id']

theorem Device.sentOf_flushCalls (d : Device) : sentOf (okCalls d.flushCalls) = d.flushFrame := by
  simp [sentOf_okCalls, Device.flushCalls, Device.flushFrame]

end Sys2Proof.Machine
end

section
/-!
PROOFS. The sequencer stepped bit by bit sends the bytes of a frame (10_state.md R21, D3): one byte, then one phase, then the three
phases of a flush.
-/

namespace Sys2Proof.Machine

theorem Device.seqRun_add (d : Device) (m k : Nat) (q : Seq) :
    d.seqRun (m + k) q = ((d.seqRun m q).1 ++ (d.seqRun k (d.seqRun m q).2).1, (d.seqRun k (d.seqRun m q).2).2) := by
  induction m generalizing q with
  | zero => simp [Device.seqRun]
  | succ m ih => simp [Nat.succ_add, Device.seqRun, ih]

/-- Runs in sequence, by what each of them does. -/
theorem Device.seqRun_trans {d : Device} {m k : Nat} {q q' q'' : Seq} {bits bits' : List Bool}
    (h : d.seqRun m q = (bits, q')) (h' : d.seqRun k q' = (bits', q'')) : d.seqRun (m + k) q = (bits ++ bits', q'') := by
  rw [Device.seqRun_add, h, h']

/-- Where the sequencer is after byte `i` of a phase. -/
def Device.afterByte (d : Device) (ph : Phase) (i : Nat) : Seq :=
  if i + 1 < d.sectionLen ph then { phase := ph, byteIdx := i + 1, bitIdx := 7 } else Seq.enter ph.next

/-- Eight ticks send one byte, bit 7 first (R34). -/
theorem Device.seqRun_byte {d : Device} {ph : Phase} {i : Nat} (hi : i < d.sectionLen ph) :
    d.seqRun 8 { phase := ph, byteIdx := i, bitIdx := 7 } = (byteBits (d.streamByte ph i), d.afterByte ph i) := by
  simp [Device.seqRun, Device.seqTick, hi, byteBits, Device.afterByte]

/-- The bytes of a phase from byte `i` on. -/
theorem Device.seqRun_bytes {d : Device} {ph : Phase} (k i : Nat) (h : i + k + 1 = d.sectionLen ph) :
    d.seqRun (8 * (k + 1)) { phase := ph, byteIdx := i, bitIdx := 7 } =
      (bitsOf ((List.range' i (k + 1)).map (d.streamByte ph)), Seq.enter ph.next) := by
  induction k generalizing i with
  | zero =>
    have last : d.afterByte ph i = Seq.enter ph.next := if_neg (by omega)
    simpa [bitsOf, last] using Device.seqRun_byte (d := d) (ph := ph) (i := i) (by omega)
  | succ k ih =>
    have next : d.afterByte ph i = { phase := ph, byteIdx := i + 1, bitIdx := 7 } := if_pos (by omega)
    have byte := Device.seqRun_byte (d := d) (ph := ph) (i := i) (by omega)
    rw [next] at byte
    rw [show 8 * (k + 1 + 1) = 8 + 8 * (k + 1) by omega, Device.seqRun_trans byte (ih (i + 1) (by omega))]
    rfl

/-- The ticks of a phase: eight for each byte, and one where it has none. -/
def Device.phaseTicks (d : Device) (ph : Phase) : Nat := 8 * d.sectionLen ph + if d.sectionLen ph = 0 then 1 else 0

/-- The bytes that the sequencer reads in a phase. -/
def Device.phaseBytes (d : Device) (ph : Phase) : List Byte := (List.range (d.sectionLen ph)).map (d.streamByte ph)

/-- A phase sends its bytes and goes on to the next one. -/
theorem Device.seqRun_phase (d : Device) (ph : Phase) :
    d.seqRun (d.phaseTicks ph) (Seq.enter ph) = (bitsOf (d.phaseBytes ph), Seq.enter ph.next) := by
  unfold Device.phaseTicks Device.phaseBytes
  cases hlen : d.sectionLen ph with
  | zero => simp [Device.seqRun, Device.seqTick, Seq.enter, hlen, bitsOf]
  | succ k => simpa [List.range_eq_range', Seq.enter] using Device.seqRun_bytes (d := d) (ph := ph) k 0 (by omega)

theorem Device.phaseBytes_start (d : Device) : d.phaseBytes .start = zeros 4 := rfl

theorem Device.phaseBytes_endFrame (d : Device) : d.phaseBytes .endFrame = zeros d.endLen := by
  have zero : d.streamByte .endFrame = fun _ => 0#8 := rfl
  simp [Device.phaseBytes, Device.sectionLen, zero, zeros]

/-- Byte `a` of the buffer is raw offset `a mod 4` of record `a div 4` (20_memory.md R31). -/
theorem bytes_of_records (pix : List Pixel) :
    ((List.range (4 * pix.length)).map fun a => ((pix[a / 4]?).bind fun p => p.rawBytes[a % 4]?).getD 0) =
      pix.flatMap Pixel.rawBytes := by
  induction pix with
  | nil => rfl
  | cons p pix ih =>
    rw [List.flatMap_cons, ← ih, List.length_cons, Nat.mul_succ, Nat.add_comm, List.range_add, List.map_append, List.map_map]
    congr 1
    simp [Function.comp_def, Nat.add_div_left]

theorem Device.phaseBytes_led {d : Device} (h : d.WellFormed) : d.phaseBytes .led = d.ledBytes := by
  rw [Device.ledBytes, ← bytes_of_records, h.length_pix]
  rfl

/-- From the first bit of `START` the sequencer sends the frame of a flush and is at `IDLE` (R21). -/
theorem Device.seqRun_flushFrame {d : Device} (h : d.WellFormed) :
    d.seqRun (8 * totalLen d.n + (if d.n = 0 then 1 else 0)) (Seq.enter .start) = (bitsOf d.flushFrame, Seq.idle) := by
  have run := Device.seqRun_trans (d.seqRun_phase .start) (Device.seqRun_trans (d.seqRun_phase .led) (d.seqRun_phase .endFrame))
  have ticks : d.phaseTicks .start + (d.phaseTicks .led + d.phaseTicks .endFrame) =
      8 * totalLen d.n + if d.n = 0 then 1 else 0 := by
    have led : 4 * d.n = 0 ↔ d.n = 0 := by omega
    have start : ¬ (4 : Nat) = 0 := by decide
    have stop : ¬ 4 + (d.n + 15) / 16 = 0 := by omega
    simp only [Device.phaseTicks, Device.sectionLen, h.endLen_eq, endLenOf, totalLen, led, start, stop, if_false]
    omega
  rw [ticks, d.phaseBytes_start, d.phaseBytes_led h, d.phaseBytes_endFrame] at run
  rw [run, Device.flushFrame, bitsOf_append, bitsOf_append, List.append_assoc]
  rfl

/-- Settles O30: `FLUSH` adds the flush frame to the wire. -/
theorem sequencerSendsTheFlushFrame : Obligations.SequencerSendsTheFlushFrame := by
  intro s d hr hwf hok
  refine ⟨_, d.flushFrame, exec_flush_ok hr hok, ?_, Device.seqRun_flushFrame hwf⟩
  rw [← d.sentOf_flushCalls]
  rfl

end Sys2Proof.Machine
end

section
/-!
SUPPORT. The bytes of the buffer (20_memory.md R31): byte `a` is raw offset `a mod 4` of record `a div 4`, and which of them a
write to one record or to every record leaves.
-/

namespace Sys2Proof.Machine

theorem State.rawByte_of_dev {s : State} {d : Device} (h : s.dev = some d) (a : Nat) : s.rawByte a = d.ledBytes[a]? := by
  simp only [State.rawByte, h, Device.ledBytes]

theorem getElem?_bytes_of_records (pix : List Pixel) (a : Nat) :
    (pix.flatMap Pixel.rawBytes)[a]? = (pix[a / 4]?).bind fun p => p.rawBytes[a % 4]? := by
  induction pix generalizing a with
  | nil => rfl
  | cons p pix ih =>
    rw [List.flatMap_cons]
    rcases Nat.lt_or_ge a 4 with own | later
    · rw [List.getElem?_append_left own, Nat.div_eq_of_lt own, Nat.mod_eq_of_lt own]
      rfl
    · obtain ⟨b, rfl⟩ := Nat.exists_eq_add_of_le' later
      rw [List.getElem?_append_right later, Pixel.rawBytes_length, Nat.add_sub_cancel, ih, Nat.add_div_right b (by decide),
        Nat.add_mod_right, List.getElem?_cons_succ]

theorem Device.getElem?_ledBytes (d : Device) (a : Nat) :
    d.ledBytes[a]? = (d.pix[a / 4]?).bind fun p => p.rawBytes[a % 4]? :=
  getElem?_bytes_of_records d.pix a

/-- The write `f` to a record leaves its byte at raw offset `o`. -/
def LeavesOffset (o : Nat) (f : Pixel → Pixel) : Prop := ∀ p : Pixel, (f p).rawBytes[o]? = p.rawBytes[o]?

/-- The colour write leaves the header (R67). -/
theorem Pixel.setRgb_leavesOffset {o : Nat} (ho : o = 0) (r g b : Byte) : LeavesOffset o (Pixel.setRgb r g b) := by
  subst ho
  exact fun _ => rfl

/-- The brightness write leaves the three colour bytes (R68). -/
theorem Pixel.setBrightness_leavesOffset {o : Nat} (ho : o ≠ 0) (x : F32) : LeavesOffset o (Pixel.setBrightness x) := by
  obtain ⟨k, rfl⟩ := Nat.exists_eq_succ_of_ne_zero ho
  exact fun _ => rfl

/-- A write to one record leaves the bytes of the others, and of that one the bytes that the write leaves. -/
theorem Device.getElem?_ledBytes_modifyPixel {i : Index} {f : Pixel → Pixel} {a : Nat}
    (h : a / 4 ≠ i.toNat ∨ LeavesOffset (a % 4) f) (d : Device) : (d.modifyPixel i f).ledBytes[a]? = d.ledBytes[a]? := by
  unfold Device.modifyPixel
  split
  · rw [Device.getElem?_ledBytes, Device.getElem?_ledBytes]
    rcases h with other | leaves
    · rw [List.getElem?_modify_ne _ _ other.symm]
    · rw [List.getElem?_modify, Option.map_eq_map, Option.bind_map]
      congr 1
      funext p
      simp only [Function.comp]
      split
      · exact leaves p
      · rfl
  · rfl

/-- A write to every record leaves the bytes that it leaves of one. -/
theorem Device.getElem?_ledBytes_modifyAll {f : Pixel → Pixel} {a : Nat} (h : LeavesOffset (a % 4) f) (d : Device) :
    (d.modifyAll f).ledBytes[a]? = d.ledBytes[a]? := by
  rw [Device.getElem?_ledBytes, Device.getElem?_ledBytes, Device.modifyAll_pix, List.getElem?_map, Option.bind_map]
  exact congrArg _ (funext h)

/-! ### Operations -/

/-- What `f` answers on a block has the same byte `a` in its buffer. -/
def LeavesByte (a : Nat) (f : Block → Except Fault (Status × Block)) : Prop :=
  ∀ {b b' : Block} {st : Status}, f b = .ok (st, b') → b'.dev.ledBytes[a]? = b.dev.ledBytes[a]?

variable {s t : State} {a : Nat}

theorem rawByte_of_runCommand {f : Block → Except Fault (Status × Block)} (hf : LeavesByte a f)
    (h : s.runCommand f = .next t) : t.rawByte a = s.rawByte a := by
  obtain ⟨d, st, b, hd, hb, rfl⟩ := State.runCommand_cases h
  rw [State.rawByte_of_dev hd]
  exact hf hb

theorem rawByte_of_runInternal {f : Block → Except Fault (Status × Block)} (hf : LeavesByte a f)
    (h : s.runInternal f = .next t) : t.rawByte a = s.rawByte a := by
  obtain ⟨d, st, b, hd, hb, rfl⟩ := State.runInternal_cases h
  rw [State.rawByte_of_dev hd]
  exact hf hb

theorem rawByte_of_runSetter {f : Device → Device} (hf : ∀ d : Device, (f d).ledBytes[a]? = d.ledBytes[a]?)
    (h : s.runSetter f = .next t) : t.rawByte a = s.rawByte a :=
  rawByte_of_runCommand (fun {b _ _} hb => by cases hb; exact hf b.dev) h

theorem rawByte_of_runPixelOp {f : Device → Device} (hf : ∀ d : Device, (f d).ledBytes[a]? = d.ledBytes[a]?)
    (h : s.runPixelOp f = .next t) : t.rawByte a = s.rawByte a := by
  obtain ⟨d, hd, h⟩ := State.withBlock_cases h
  cases h
  rw [State.rawByte_of_dev hd]
  exact hf d

theorem rawByte_of_runGetter {j : Index} {f : Pixel → Ret} (h : s.runGetter j f = .next t) :
    t.rawByte a = s.rawByte a := by
  obtain ⟨d, hd, h⟩ := State.withBlock_cases h
  split at h <;> cases h <;> rfl

end Sys2Proof.Machine
end

section
/-!
SUPPORT. The parts of the transport and of a flush leave every byte of the buffer (20_memory.md R37).
-/

namespace Sys2Proof.Machine

theorem Block.txWrite_leavesByte (p : Params) (bytes : List Byte) (a : Nat) : LeavesByte a (Block.txWrite p bytes) := by
  intro b b' st h
  obtain ⟨_, ⟨_, _, rfl⟩ | ⟨j, _, _, _, rfl⟩⟩ := Block.txWrite_cases h
  · rw [Block.recordWrite_eq]; rfl
  · rw [Block.recordWrite_eq]; rfl

theorem sendSections_leavesByte (p : Params) (secs : List (Phase × List Byte)) (a : Nat) :
    LeavesByte a (sendSections p secs) := by
  intro b b' st h
  obtain ⟨calls, rfl, _⟩ := sendSections_cases h
  rfl

theorem flushBlock_leavesByte (p : Params) (a : Nat) : LeavesByte a (flushBlock p) := by
  intro b b' st h
  unfold flushBlock at h
  split at h
  · cases h; rfl
  · exact sendSections_leavesByte _ _ _ h

theorem frameBlock_leavesByte (p : Params) (ph : Phase) (bytes : List Byte) (a : Nat) :
    LeavesByte a (frameBlock p ph bytes) := by
  intro b b' st h
  unfold frameBlock at h
  split at h
  · cases h; rfl
  · exact sendSections_leavesByte _ _ _ h

variable {s t : State} (a : Nat)

theorem rawByte_of_execTxWriteGpio {bytes : List Byte} (h : execTxWriteGpio bytes s = .next t) :
    t.rawByte a = s.rawByte a := by
  obtain ⟨d, hd, h⟩ := State.withBlock_cases h
  split at h
  · exact rawByte_of_runInternal (Block.txWrite_leavesByte _ _ a) h
  · cases h

theorem rawByte_of_execTxWriteSpi {bytes : List Byte} (h : execTxWriteSpi bytes s = .next t) :
    t.rawByte a = s.rawByte a := by
  obtain ⟨d, hd, h⟩ := State.withBlock_cases h
  split at h
  · cases h
  · exact rawByte_of_runInternal (Block.txWrite_leavesByte _ _ a) h

theorem rawByte_of_execTxTeardownGpio (h : execTxTeardownGpio s = .next t) : t.rawByte a = s.rawByte a := by
  obtain ⟨d, hd, h⟩ := State.withBlock_cases h
  split at h
  · split at h
    · cases h
    next b hb =>
      cases h
      obtain ⟨rfl, _⟩ := Block.txTeardown_cases hb
      rw [State.rawByte_of_dev hd]
      rfl
  · cases h

theorem rawByte_of_execTxTeardownSpi (h : execTxTeardownSpi s = .next t) : t.rawByte a = s.rawByte a := by
  obtain ⟨d, hd, h⟩ := State.withBlock_cases h
  split at h <;> cases h
  rfl

end Sys2Proof.Machine
end

section
/-!
PROOFS. The statements of 20_memory.md about the bytes that an operation leaves (R37).
-/

namespace Sys2Proof.Machine

/-- Settles O21: each row's write leaves the offsets that the row does not name, in one record or in all of them. -/
theorem bufferWritesLeaveOtherBytes : Obligations.BufferWritesLeaveOtherBytes := by
  intro s t idx r g b x a
  refine ⟨?colour, ?brightness, ?record, ?bulkColour, ?bulkBrightness⟩
  case colour =>
    rintro ⟨i, hi, h⟩ outside
    have leaves (r g b : Byte) : a / 4 ≠ idx.toNat ∨ LeavesOffset (a % 4) (Pixel.setRgb r g b) :=
      outside.imp_right (Pixel.setRgb_leavesOffset · r g b)
    simp only [List.mem_cons, List.not_mem_nil, or_false] at hi
    rcases hi with rfl | rfl | rfl
    · exact rawByte_of_runSetter (Device.getElem?_ledBytes_modifyPixel (leaves r g b)) h
    · exact rawByte_of_runPixelOp (Device.getElem?_ledBytes_modifyPixel (leaves r g b)) h
    · exact rawByte_of_runPixelOp (Device.getElem?_ledBytes_modifyPixel (leaves 0 0 0)) h
  case brightness =>
    rintro ⟨i, hi, h⟩ outside
    have leaves : a / 4 ≠ idx.toNat ∨ LeavesOffset (a % 4) (Pixel.setBrightness x) :=
      outside.imp_right (Pixel.setBrightness_leavesOffset · x)
    simp only [List.mem_cons, List.not_mem_nil, or_false] at hi
    rcases hi with rfl | rfl
    · exact rawByte_of_runSetter (Device.getElem?_ledBytes_modifyPixel leaves) h
    · exact rawByte_of_runPixelOp (Device.getElem?_ledBytes_modifyPixel leaves) h
  case record =>
    rintro ⟨i, hi, h⟩ outside
    simp only [List.mem_cons, List.not_mem_nil, or_false] at hi
    rcases hi with rfl | rfl
    · exact rawByte_of_runSetter (Device.getElem?_ledBytes_modifyPixel (.inl outside)) h
    · exact rawByte_of_runPixelOp (Device.getElem?_ledBytes_modifyPixel (.inl outside)) h
  case bulkColour =>
    rintro ⟨i, hi, h⟩ header
    simp only [List.mem_cons, List.not_mem_nil, or_false] at hi
    rcases hi with rfl | rfl
    · exact rawByte_of_runSetter (Device.getElem?_ledBytes_modifyAll (Pixel.setRgb_leavesOffset header r g b)) h
    · exact rawByte_of_runSetter (Device.getElem?_ledBytes_modifyAll (Pixel.setRgb_leavesOffset header 0 0 0)) h
  case bulkBrightness =>
    intro h colour
    exact rawByte_of_runSetter (Device.getElem?_ledBytes_modifyAll (Pixel.setBrightness_leavesOffset colour x)) h

/-- Settles O22, by the form of each operation. -/
theorem otherOperationsLeaveTheBuffer : Obligations.OtherOperationsLeaveTheBuffer := by
  intro s t i a hi h
  cases i with
  | flush => exact rawByte_of_runCommand (flushBlock_leavesByte _ a) h
  | showFrame => exact rawByte_of_runCommand (flushBlock_leavesByte _ a) h
  | setClearOnTeardown flag => exact rawByte_of_runSetter (f := fun d => d.setCot flag) (fun _ => rfl) h
  | startFrame => exact rawByte_of_runInternal (frameBlock_leavesByte _ _ _ a) h
  | ledFrame k blue green red => exact rawByte_of_runInternal (frameBlock_leavesByte _ _ _ a) h
  | endFrame =>
    exact rawByte_of_runInternal (f := fun b => frameBlock s.params .endFrame (zeros b.dev.endLen) b)
      (frameBlock_leavesByte _ _ _ a) h
  | pxRgb j => exact rawByte_of_runGetter h
  | pxBrightness j => exact rawByte_of_runGetter h
  | pxRgbb j => exact rawByte_of_runGetter h
  | pxRawBytes j => exact rawByte_of_runGetter h
  | pxDefault => cases h; rfl
  | txWrite bytes => exact rawByte_of_runInternal (Block.txWrite_leavesByte _ _ a) h
  | txWriteGpio bytes => exact rawByte_of_execTxWriteGpio a h
  | txWriteSpi bytes => exact rawByte_of_execTxWriteSpi a h
  | txTeardownGpio => exact rawByte_of_execTxTeardownGpio a h
  | txTeardownSpi => exact rawByte_of_execTxTeardownSpi a h
  | _ => exact hi.elim

end Sys2Proof.Machine
end

section
/-!
PROOFS. In-memory commands are idempotent (20_memory.md R38), because each of their writes is.
-/

namespace Sys2Proof.Machine

theorem Pixel.setRgb_idem (r g b : Byte) (p : Pixel) : (p.setRgb r g b).setRgb r g b = p.setRgb r g b := rfl

theorem Pixel.setBrightness_idem (x : F32) (p : Pixel) : (p.setBrightness x).setBrightness x = p.setBrightness x := rfl

theorem Pixel.setRgbb_idem (r g b : Byte) (x : F32) (p : Pixel) :
    (p.setRgbb r g b x).setRgbb r g b x = p.setRgbb r g b x := rfl

theorem Device.modifyPixel_idem {f : Pixel → Pixel} (hf : ∀ p, f (f p) = f p) (i : Index) (d : Device) :
    (d.modifyPixel i f).modifyPixel i f = d.modifyPixel i f := by
  unfold Device.modifyPixel
  split
  · simp only [List.modify_modify_eq, show f ∘ f = f from funext hf]
  · rfl

theorem Device.modifyAll_idem {f : Pixel → Pixel} (hf : ∀ p, f (f p) = f p) (d : Device) :
    (d.modifyAll f).modifyAll f = d.modifyAll f := by
  simp only [Device.modifyAll, List.map_map, show f ∘ f = f from funext hf]

theorem runSetter_idem {s t : State} {f : Device → Device} (hf : ∀ d, f (f d) = f d) (h : s.runSetter f = .next t) :
    t.runSetter f = .next t := by
  obtain ⟨d, st, b, hd, hb, rfl⟩ := State.runCommand_cases h
  cases hb
  refine (State.runSetter_eq (d := f d) rfl f).trans ?_
  rw [hf]
  rfl

section
variable {s t : State} {f : Pixel → Pixel} (hf : ∀ p, f (f p) = f p)
include hf

theorem runSetter_modifyPixel_idem {i : Index} (h : s.runSetter (Device.modifyPixel · i f) = .next t) :
    t.runSetter (Device.modifyPixel · i f) = .next t :=
  runSetter_idem (Device.modifyPixel_idem hf i) h

theorem runSetter_modifyAll_idem (h : s.runSetter (Device.modifyAll · f) = .next t) :
    t.runSetter (Device.modifyAll · f) = .next t :=
  runSetter_idem (Device.modifyAll_idem hf) h

end

/-- Settles O23: each of the eight writes, done twice, is that write. -/
theorem inMemoryCommandsAreIdempotent : Obligations.InMemoryCommandsAreIdempotent := by
  intro s t i hi h
  cases i with
  | setPixel idx r g b => exact runSetter_modifyPixel_idem (Pixel.setRgb_idem r g b) h
  | setPixelRgbb idx r g b br => exact runSetter_modifyPixel_idem (Pixel.setRgbb_idem r g b br) h
  | setPixelBrightness idx br => exact runSetter_modifyPixel_idem (Pixel.setBrightness_idem br) h
  | setAllPixels r g b => exact runSetter_modifyAll_idem (Pixel.setRgb_idem r g b) h
  | setAllPixelsRgbb r g b br => exact runSetter_modifyAll_idem (Pixel.setRgbb_idem r g b br) h
  | setAllPixelsBrightness br => exact runSetter_modifyAll_idem (Pixel.setBrightness_idem br) h
  | clear => exact runSetter_modifyAll_idem (Pixel.setRgb_idem 0 0 0) h
  | setClearOnTeardown flag => exact runSetter_idem (f := fun d => d.setCot flag) (fun _ => rfl) h
  | _ => cases hi

end Sys2Proof.Machine
end

section
/-!
PROOFS. The layout of the bytes of one flush (20_memory.md R39): the frame cut at its three sections, and each of its bytes.
-/

namespace Sys2Proof.Machine

section
variable {d : Device} (h : d.WellFormed)
include h

theorem Device.ledBytes_length : d.ledBytes.length = 4 * d.n := by
  rw [← d.phaseBytes_led h, Device.phaseBytes, List.length_map, List.length_range]
  rfl

/-- The three write calls of a flush send the first 4 bytes of the frame, the next `4 * N`, and the rest. -/
theorem Device.flushCalls_eq_cuts :
    d.flushCalls = [d.flushFrame.take 4, (d.flushFrame.drop 4).take (4 * d.n), d.flushFrame.drop (4 + 4 * d.n)] := by
  have start : (zeros 4).length = 4 := rfl
  rw [← List.drop_drop, Device.flushFrame, List.append_assoc, List.take_left' start, List.drop_left' start,
    List.take_left' (d.ledBytes_length h), List.drop_left' (d.ledBytes_length h)]
  rfl

/-- Raw offset `o` of record `i` is byte `4 + 4 * i + o` of the frame. -/
theorem Device.getElem?_flushFrame_led {i o : Nat} {p : Pixel} (hp : d.pix[i]? = some p) (ho : o < 4) :
    d.flushFrame[4 + 4 * i + o]? = p.rawBytes[o]? := by
  have hi : i < d.n := h.length_pix ▸ (List.getElem?_eq_some_iff.mp hp).1
  have len := d.ledBytes_length h
  have start : (zeros 4).length = 4 := rfl
  calc d.flushFrame[4 + 4 * i + o]?
      = d.ledBytes[4 * i + o]? := by
        rw [Device.flushFrame, List.append_assoc, Nat.add_assoc,
          List.getElem?_append_right (start ▸ Nat.le_add_right 4 _), start, Nat.add_sub_cancel_left,
          List.getElem?_append_left (by omega)]
    _ = p.rawBytes[o]? := by
        rw [Device.getElem?_ledBytes, show (4 * i + o) / 4 = i by omega, show (4 * i + o) % 4 = o by omega, hp]
        rfl

/-- Every byte of the frame after its records is zero. -/
theorem Device.getElem?_flushFrame_endFrame {a : Nat} (lo : 4 + 4 * d.n ≤ a) (hi : a < totalLen d.n) :
    d.flushFrame[a]? = some 0 := by
  have len : (zeros 4 ++ d.ledBytes).length = 4 + 4 * d.n := by
    rw [List.length_append, d.ledBytes_length h]
    rfl
  have short : a - (4 + 4 * d.n) < d.endLen := by
    rw [h.endLen_eq, endLenOf]
    unfold totalLen at hi
    omega
  rw [Device.flushFrame, List.getElem?_append_right (len ▸ lo), len]
  exact List.getElem?_replicate_of_lt short

end

/-- The first four bytes of the frame are zero. -/
theorem Device.getElem?_flushFrame_start (d : Device) {a : Nat} (ha : a < 4) : d.flushFrame[a]? = some 0 := by
  rw [Device.flushFrame, List.append_assoc, List.getElem?_append_left ha]
  exact List.getElem?_replicate_of_lt ha

/-- Settles O26: the flush adds the flush frame to the wire, and its three calls are the three cuts of that frame. -/
theorem flushStreamLayout : Obligations.FlushStreamLayout := by
  intro s d hr hwf hok
  refine ⟨_, d.flushFrame, exec_flush_ok hr hok, ?wire, ?writes, Device.flushFrame_length hwf,
    fun a ha => d.getElem?_flushFrame_start ha, ?records,
    fun a lo hi => d.getElem?_flushFrame_endFrame hwf lo hi⟩
  case wire =>
    rw [← d.sentOf_flushCalls]
    rfl
  case writes =>
    rw [← d.flushCalls_eq_cuts hwf]
    rfl
  case records =>
    intro i p hp
    have byte {o : Nat} (ho : o < 4) := d.getElem?_flushFrame_led hwf hp ho
    exact ⟨byte (o := 0) (by decide), byte (o := 1) (by decide), byte (o := 2) (by decide), byte (o := 3) (by decide)⟩

end Sys2Proof.Machine
end

section
/-!
PROOFS. A Pixel operation on an index that selects no record (20_memory.md R32; log 10).
-/

namespace Sys2Proof.Machine

section
variable {d : Device} {i : Index} (hi : d.n ≤ i.toNat)
include hi

theorem Device.pixelAt_of_le : d.pixelAt i = none := if_neg (Nat.not_lt.mpr hi)

theorem Device.modifyPixel_of_le (f : Pixel → Pixel) : d.modifyPixel i f = d := if_neg (Nat.not_lt.mpr hi)

variable {s : State} (hd : s.dev = some d)
include hd

theorem runPixelOp_of_no_record (f : Pixel → Pixel) :
    s.runPixelOp (Device.modifyPixel · i f) = .next { s with ret := .none } := by
  rw [State.runPixelOp_eq hd, Device.modifyPixel_of_le hi, ← hd]

theorem runGetter_of_no_record (f : Pixel → Ret) : s.runGetter i f = .next { s with ret := .none } := by
  rw [State.runGetter_eq hd, Device.pixelAt_of_le hi]
  rfl

end

/-- Settles O13: the four writes select no record to write, and the four getters none to read. -/
theorem pixelOperationsOnNoRecordDoNothing : Obligations.PixelOperationsOnNoRecordDoNothing := by
  intro s d i r g b x hd hi o ho
  simp only [List.mem_cons, List.not_mem_nil, or_false] at ho
  rcases ho with rfl | rfl | rfl | rfl | rfl | rfl | rfl | rfl
  · exact runPixelOp_of_no_record hi hd _
  · exact runPixelOp_of_no_record hi hd _
  · exact runPixelOp_of_no_record hi hd _
  · exact runPixelOp_of_no_record hi hd _
  · exact runGetter_of_no_record hi hd _
  · exact runGetter_of_no_record hi hd _
  · exact runGetter_of_no_record hi hd _
  · exact runGetter_of_no_record hi hd _

end Sys2Proof.Machine
end

section
/-!
PROOFS. The decoder of command words (30_encoding.md R53 to R56, R63): a word is its six fields, and what each code decodes to.
-/

namespace Sys2Proof

/-- A word is put together from its own fields (R53): bit by bit, each lies in one of the six. -/
theorem cmdWord_of_fields (w : CmdWord) :
    cmdWord (cmdOp w) (cmdIdx w) (cmdR w) (cmdG w) (cmdB w) (cmdBr w) = w := by
  apply BitVec.eq_of_getLsbD_eq
  intro k hk
  simp only [cmdWord_getLsbD, cmdOp, cmdIdx, cmdR, cmdG, cmdB, cmdBr, BitVec.getLsbD_extractLsb']
  split_ifs with h₁ h₂ h₃ h₄ h₅
  · simp [h₁]
  · simp [show k - 32 < 8 by omega, show 32 + (k - 32) = k by omega]
  · simp [show k - 40 < 8 by omega, show 40 + (k - 40) = k by omega]
  · simp [show k - 48 < 8 by omega, show 48 + (k - 48) = k by omega]
  · simp [show k - 56 < 16 by omega, show 56 + (k - 56) = k by omega]
  · simp [show k - 72 < 8 by omega, show 72 + (k - 72) = k by omega]

/-! ### One equation per code (R54, R55) -/

section
variable (idx : Index) (r g b : Byte) (br : F32)

@[simp] theorem decodeCmd_setPixel : decodeCmd (cmdWord 0x01 idx r g b br) = .ok (.setPixel idx r g b) := by
  simp [decodeCmd]

@[simp] theorem decodeCmd_setPixelRgbb :
    decodeCmd (cmdWord 0x02 idx r g b br) = .ok (.setPixelRgbb idx r g b br) := by
  simp [decodeCmd]

@[simp] theorem decodeCmd_setPixelBrightness :
    decodeCmd (cmdWord 0x03 idx r g b br) = .ok (.setPixelBrightness idx br) := by
  simp [decodeCmd]

@[simp] theorem decodeCmd_setAllPixels : decodeCmd (cmdWord 0x04 idx r g b br) = .ok (.setAllPixels r g b) := by
  simp [decodeCmd]

@[simp] theorem decodeCmd_setAllPixelsRgbb :
    decodeCmd (cmdWord 0x05 idx r g b br) = .ok (.setAllPixelsRgbb r g b br) := by
  simp [decodeCmd]

@[simp] theorem decodeCmd_setAllPixelsBrightness :
    decodeCmd (cmdWord 0x06 idx r g b br) = .ok (.setAllPixelsBrightness br) := by
  simp [decodeCmd]

@[simp] theorem decodeCmd_clear : decodeCmd (cmdWord 0x07 idx r g b br) = .ok .clear := by simp [decodeCmd]

@[simp] theorem decodeCmd_flush : decodeCmd (cmdWord 0x08 idx r g b br) = .ok .flush := by simp [decodeCmd]

@[simp] theorem decodeCmd_setClearOnTeardown :
    decodeCmd (cmdWord 0x09 idx r g b br) = .ok (.setClearOnTeardown (r.getLsbD 0)) := by
  simp [decodeCmd]

@[simp] theorem decodeCmd_teardown : decodeCmd (cmdWord 0x0A idx r g b br) = .ok .teardown := by simp [decodeCmd]

@[simp] theorem decodeCmd_drop : decodeCmd (cmdWord 0x0B idx r g b br) = .ok .drop := by simp [decodeCmd]

end

/-- The flag's byte is read back as the flag (R56). -/
theorem getLsbD_flagByte (flag : Bool) : (if flag then 1 else 0 : Byte).getLsbD 0 = flag := by
  revert flag
  decide

/-- Settles O2: a command's word has the command's code, and the fields that the code reads hold its operands. -/
theorem decodeOfEncodeIsTheCommand : Obligations.DecodeOfEncodeIsTheCommand := by
  intro i w h
  cases i with
  | setPixel idx r g b => cases h; exact decodeCmd_setPixel idx r g b 0
  | setPixelRgbb idx r g b br => cases h; exact decodeCmd_setPixelRgbb idx r g b br
  | setPixelBrightness idx br => cases h; exact decodeCmd_setPixelBrightness idx 0 0 0 br
  | setAllPixels r g b => cases h; exact decodeCmd_setAllPixels 0 r g b 0
  | setAllPixelsRgbb r g b br => cases h; exact decodeCmd_setAllPixelsRgbb 0 r g b br
  | setAllPixelsBrightness br => cases h; exact decodeCmd_setAllPixelsBrightness 0 0 0 0 br
  | clear => cases h; exact decodeCmd_clear 0 0 0 0 0
  | flush => cases h; exact decodeCmd_flush 0 0 0 0 0
  | showFrame => cases h; exact decodeCmd_flush 0 0 0 0 0
  | setClearOnTeardown flag =>
    cases h
    rw [decodeCmd_setClearOnTeardown, getLsbD_flagByte]
    rfl
  | teardown => cases h; exact decodeCmd_teardown 0 0 0 0 0
  | drop => cases h; exact decodeCmd_drop 0 0 0 0 0
  | _ => cases h

/-- Settles O3: the equation of each code names the fields it reads and holds for every value of the others. -/
theorem decodeReadsOnlyTheUsedFields : Obligations.DecodeReadsOnlyTheUsedFields :=
  ⟨fun w => (cmdWord_of_fields w).symm, fun idx r g b br =>
    ⟨decodeCmd_setPixel idx r g b br, decodeCmd_setPixelRgbb idx r g b br, decodeCmd_setPixelBrightness idx r g b br,
      decodeCmd_setAllPixels idx r g b br, decodeCmd_setAllPixelsRgbb idx r g b br,
      decodeCmd_setAllPixelsBrightness idx r g b br, decodeCmd_clear idx r g b br, decodeCmd_flush idx r g b br,
      decodeCmd_setClearOnTeardown idx r g b br, decodeCmd_teardown idx r g b br, decodeCmd_drop idx r g b br⟩⟩

/-- Settles O1: twelve closed words, each decoded by evaluation. -/
theorem decodesTheExampleWords : Obligations.DecodesTheExampleWords := by
  unfold Obligations.DecodesTheExampleWords
  decide

end Sys2Proof
end

section
/-!
PROOFS. The reserved codes (30_encoding.md R63): the decoder refuses them and no others.
-/

namespace Sys2Proof.Machine

/-- The codes that select no operation (R63). -/
def Reserved (w : CmdWord) : Prop := cmdOp w = 0x00 ∨ 0x0C ≤ (cmdOp w).toNat

/-- A word is decoded to an operation, whose fields are legal at every value, or its code is refused by name. -/
theorem decodeCmd_cases (w : CmdWord) :
    (¬ Reserved w ∧ ∃ i, decodeCmd w = .ok i ∧ i.wellFormed = true) ∨
      (Reserved w ∧ decodeCmd w = .error (.reservedCode (cmdOp w))) := by
  have code : Reserved w ↔ (cmdOp w).toNat = 0 ∨ 0x0C ≤ (cmdOp w).toNat := by
    simp [Reserved, ← BitVec.toNat_inj]
  rw [code]
  unfold decodeCmd
  split
  case h_12 =>
    refine .inr ⟨?_, rfl⟩
    simp only [imp_false] at *
    omega
  all_goals exact .inl ⟨by omega, _, rfl, rfl⟩

/-- Settles O4: the decoder's two cases exclude each other, and a step refuses what its decoder rejects. -/
theorem reservedCodesAreRefused : Obligations.ReservedCodesAreRefused := by
  have refused {w : CmdWord} (h : Reserved w) : decodeCmd w = .error (.reservedCode (cmdOp w)) := by
    obtain ⟨hn, _⟩ | ⟨_, he⟩ := decodeCmd_cases w
    · exact absurd h hn
    · exact he
  refine ⟨fun w => ⟨refused, fun he => ?_⟩, fun s w rest hhost hready h => ?_⟩
  · obtain ⟨_, i, hi, _⟩ | ⟨h, _⟩ := decodeCmd_cases w
    · rw [hi] at he
      cases he
    · exact h
  · apply step_of_fetch_reject
    rw [State.fetch_command hhost hready, refused h]
    rfl

end Sys2Proof.Machine
end

section
/-!
PROOFS. The decoder of wire frames (30_encoding.md R47 to R50): it inverts the encoder, and it refuses all other bytes.
-/

namespace Sys2Proof

/-- Four bytes are a start frame, an LED frame or no frame (R48, R49). -/
theorem decodeFrame_four (endLen : Nat) (b₀ b₁ b₂ b₃ : Byte) :
    decodeFrame endLen [b₀, b₁, b₂, b₃] =
      if b₀ = 0#8 ∧ b₁ = 0#8 ∧ b₂ = 0#8 ∧ b₃ = 0#8 then .ok .startFrame
      else if hasMarker b₀ then .ok (.ledFrame (b₀.extractLsb' 0 5) b₁ b₂ b₃)
      else .error .notAFrame := rfl

/-- Bytes of any other number are an end frame or no frame (R50). -/
theorem decodeFrame_of_length_ne {bytes : List Byte} (h : bytes.length ≠ 4) (endLen : Nat) :
    decodeFrame endLen bytes = if bytes = List.replicate endLen 0#8 then .ok .endFrame else .error .notAFrame := by
  unfold decodeFrame
  split
  · exact absurd rfl h
  · rfl

/-- A header with the marker is the marker over its field (R49). -/
theorem hdrByte_extractLsb' {x : Byte} (h : hasMarker x = true) : hdrByte (x.extractLsb' 0 5) = x := by
  revert x
  decide

/-- What a header byte is read as: it is not zero, it has the marker, and its field is the one it was made from. -/
theorem hdrByte_fields (k : Field) :
    hdrByte k ≠ 0#8 ∧ hasMarker (hdrByte k) = true ∧ (hdrByte k).extractLsb' 0 5 = k := by
  revert k
  decide

theorem decodeFrame_ledFrame (endLen : Nat) (k : Field) (blue green red : Byte) :
    decodeFrame endLen [hdrByte k, blue, green, red] = .ok (.ledFrame k blue green red) := by
  obtain ⟨hne, hmark, hfield⟩ := hdrByte_fields k
  rw [decodeFrame_four, if_neg fun h => hne h.1, if_pos hmark, hfield]

/-- Every byte sequence is the frame it is encoded as, or no frame. -/
theorem decodeFrame_cases (endLen : Nat) (bytes : List Byte) :
    (∃ i, decodeFrame endLen bytes = .ok i ∧ encodeFrame endLen i = some bytes) ∨
      decodeFrame endLen bytes = .error .notAFrame := by
  by_cases hlen : bytes.length = 4
  · obtain ⟨b₀, b₁, b₂, b₃, rfl⟩ := List.length_eq_four.mp hlen
    rw [decodeFrame_four]
    split_ifs with hzero hmark
    · obtain ⟨rfl, rfl, rfl, rfl⟩ := hzero
      exact .inl ⟨_, rfl, rfl⟩
    · exact .inl ⟨_, rfl, by rw [encodeFrame, hdrByte_extractLsb' hmark]⟩
    · exact .inr rfl
  · rw [decodeFrame_of_length_ne hlen]
    split_ifs with hzero
    · exact .inl ⟨_, rfl, congrArg some hzero.symm⟩
    · exact .inr rfl

theorem encodeFrame_of_decodeFrame {endLen : Nat} {i : Instr} {bytes : List Byte}
    (h : decodeFrame endLen bytes = .ok i) : encodeFrame endLen i = some bytes := by
  obtain ⟨j, hj, henc⟩ | he := decodeFrame_cases endLen bytes
  · cases hj.symm.trans h
    exact henc
  · cases he.symm.trans h

/-- The operations with frame bytes are the three frames (R47). -/
theorem encodeFrame_cases {endLen : Nat} {i : Instr} {bytes : List Byte} (h : encodeFrame endLen i = some bytes) :
    (i = .startFrame ∧ bytes = List.replicate 4 0#8) ∨
      (∃ k blue green red, i = .ledFrame k blue green red ∧ bytes = [hdrByte k, blue, green, red]) ∨
      (i = .endFrame ∧ bytes = List.replicate endLen 0#8) := by
  cases i with
  | startFrame => cases h; exact .inl ⟨rfl, rfl⟩
  | ledFrame k blue green red => cases h; exact .inr (.inl ⟨k, blue, green, red, rfl, rfl⟩)
  | endFrame => cases h; exact .inr (.inr ⟨rfl, rfl⟩)
  | _ => cases h

theorem decodeFrame_of_encodeFrame {endLen : Nat} {i : Instr} {bytes : List Byte}
    (h : encodeFrame endLen i = some bytes) (hend : i = .endFrame → endLen ≠ 4) : decodeFrame endLen bytes = .ok i := by
  obtain ⟨rfl, rfl⟩ | ⟨k, blue, green, red, rfl, rfl⟩ | ⟨rfl, rfl⟩ := encodeFrame_cases h
  · rfl
  · exact decodeFrame_ledFrame endLen k blue green red
  · rw [decodeFrame_of_length_ne (by simpa using hend rfl), if_pos rfl]

end Sys2Proof

namespace Sys2Proof.Machine

/-- Settles O5: the decoder inverts the encoder, and bytes it does not read as a frame are refused by the step. -/
theorem frameDecodeOfEncodeIsTheFrame : Obligations.FrameDecodeOfEncodeIsTheFrame := by
  refine ⟨fun _ _ _ => decodeFrame_of_encodeFrame, fun _ _ _ => encodeFrame_of_decodeFrame, ?_⟩
  intro s d bytes rest hhost hd hnone
  apply step_of_fetch_reject
  rw [State.fetch_frame hhost hd]
  obtain ⟨i, _, henc⟩ | he := decodeFrame_cases d.endLen bytes
  · exact absurd henc (hnone i)
  · rw [he]
    rfl

/-! ### Words of the table -/

theorem wellFormed_of_decodeCmd {w : CmdWord} {i : Instr} (h : decodeCmd w = .ok i) : i.wellFormed = true := by
  obtain ⟨_, j, hj, hwf⟩ | ⟨_, he⟩ := decodeCmd_cases w
  · cases hj.symm.trans h
    exact hwf
  · cases he.symm.trans h

theorem wellFormed_of_decodeFrame {endLen : Nat} {i : Instr} {bytes : List Byte}
    (h : decodeFrame endLen bytes = .ok i) : i.wellFormed = true := by
  obtain ⟨rfl, _⟩ | ⟨_, _, _, _, rfl, _⟩ | ⟨rfl, _⟩ := encodeFrame_cases (encodeFrame_of_decodeFrame h) <;> rfl

theorem eq_ok_of_toOption {e : Except Reject Instr} {i : Instr} (h : e.toOption = some i) : e = .ok i := by
  cases e with
  | error r => cases h
  | ok j => cases h; rfl

/-- Settles O60: the request that a table word becomes is decoded by the decoder that reads the word. -/
theorem placedWordIsRunNext : Obligations.PlacedWordIsRunNext := by
  intro s nbits w i d hready hd hlen hdec
  unfold decodeTableWord at hdec
  split_ifs at hdec with hcmd hframe
  · have hi := eq_ok_of_toOption hdec
    have hhost : (s.withFetchWord nbits w).host = .command (BitVec.ofNat 80 w) :: s.host := by
      simp [State.withFetchWord, requestOf, hcmd]
    exact step_of_host_decoded hhost (State.fetch_command hhost hready) hi (wellFormed_of_decodeCmd hi)
  · have hi := eq_ok_of_toOption hdec
    have hhost : (s.withFetchWord nbits w).host = .frame (wordBytes (nbits / 8) (w % 2 ^ nbits)) :: s.host := by
      simp [State.withFetchWord, requestOf, hcmd]
    rw [← hlen] at hi
    exact step_of_host_decoded hhost (State.fetch_frame hhost hd) hi (wellFormed_of_decodeFrame hi)

end Sys2Proof.Machine
end

section
/-!
PROOFS. The wire frames as operations (30_encoding.md R47 to R50; log 9): each is one write call with the bytes it is encoded as,
and a flush puts on the wire what its frames put there in order.
-/

namespace Sys2Proof.Machine

/-- An operation with frame bytes hands those bytes to the transport. -/
theorem exec_frame_eq {s : State} {d : Device} {i : Instr} {bytes : List Byte} (hd : s.dev = some d)
    (henc : encodeFrame d.endLen i = some bytes) : ∃ ph, exec i s = s.runInternal (frameBlock s.params ph bytes) := by
  obtain ⟨rfl, rfl⟩ | ⟨k, blue, green, red, rfl, rfl⟩ | ⟨rfl, rfl⟩ := encodeFrame_cases henc
  · exact ⟨.start, rfl⟩
  · exact ⟨.led, rfl⟩
  · refine ⟨.endFrame, ?_⟩
    simp only [exec, execEndFrame, State.runInternal, State.withBlock_some hd]
    rfl

/-- A frame whose one call answers leaves the block after that call, its sequencer idle again, and returns the call's result. -/
theorem runInternal_frameBlock {s : State} {d : Device} {ph : Phase} {bytes : List Byte} {st : Status} {out : WriteOutcome}
    (hr : s.Ready d)
    (hw : ∀ b : Block, b.dev.tx = d.tx → b.env = s.env → b.txWrite s.params bytes = .ok (st, b.recordWrite bytes out)) :
    s.runInternal (frameBlock s.params ph bytes) =
      .next { s.afterCalls d [{ bytes := bytes, outcome := out }] with ret := .result st } := by
  have sent : frameBlock s.params ph bytes { dev := d, hist := s.hist, env := s.env } =
      .ok (st, (Block.recordWrite bytes out { dev := d, hist := s.hist, env := s.env }).toIdle) := by
    rw [frameBlock, hr.rel_eq, if_neg (by decide), sendSections_cons (hw _ rfl rfl)]
    cases st <;> simp [sendSections, Block.recordWrite_eq, Block.enterPhase, Block.toIdle]
  rw [State.runInternal_ok hr.dev_eq sent, Block.recordWrite_eq]
  simp [State.put, State.answer, State.afterCalls, Block.toIdle, sentOf, ← hr.seq_idle]

section
variable {s : State} {d : Device} {i : Instr} {bytes : List Byte} (henc : encodeFrame d.endLen i = some bytes)
include henc

theorem exec_frame_ok (hr : s.Ready d) {k : Nat} (hok : s.WritesOk d (k + 1)) :
    exec i s = .next { s.afterCalls d (okCalls [bytes]) with ret := .result .ok } := by
  obtain ⟨ph, h⟩ := exec_frame_eq hr.dev_eq henc
  rw [h]
  refine runInternal_frameBlock hr fun b htx henv => Block.txWrite_ok (htx ▸ hr.usable) ?_
  have blockOk : b.WritesOk s.params (k + 1) := by rw [Block.WritesOk, htx, henv]; exact hok
  exact blockOk.nextOutcome bytes

theorem exec_frame_fail (hr : s.Ready d) {j : Nat} (hf : s.WriteFailsAt d 0 j) :
    exec i s = .next { s.afterCalls d (failedCalls [bytes] 0 j) with ret := .result .hardware } := by
  obtain ⟨ph, h⟩ := exec_frame_eq hr.dev_eq henc
  rw [h]
  refine runInternal_frameBlock hr fun b htx henv => Block.txWrite_fail (htx ▸ hr.usable) ?_
  have answer : b.env.writeAnswer bytes = .fail j := by
    simp [Env.writeAnswer, henv, show s.env.writeScript[s.env.writeTick]? = some (.fail j) from hf.fails]
  rw [Block.nextOutcome, answer, htx, allowedOutcome_fail hf.can_fail]

theorem exec_frame_released (hd : s.dev = some d) (hrel : d.rel = true) :
    exec i s = .next { s with ret := .result s.params.postTeardownStatus } := by
  obtain ⟨ph, h⟩ := exec_frame_eq hd henc
  have silent : frameBlock s.params ph bytes { dev := d, hist := s.hist, env := s.env } =
      .ok (s.params.postTeardownStatus, { dev := d, hist := s.hist, env := s.env }) := by
    rw [frameBlock, hrel, if_pos rfl]
  rw [h, State.runInternal_ok hd silent, State.put, ← hd]
  rfl

end

/-- Settles O32: the three operations are the three that have frame bytes. -/
theorem framesAreOneWriteCall : Obligations.FramesAreOneWriteCall := by
  intro s d k blue green red
  refine ⟨fun hr hok => ?_, fun j hr hf => ?_, fun hd hrel i hi => ?_⟩
  · exact ⟨exec_frame_ok rfl hr hok, exec_frame_ok rfl hr hok, exec_frame_ok rfl hr hok⟩
  · exact ⟨exec_frame_fail rfl hr hf, exec_frame_fail rfl hr hf, exec_frame_fail rfl hr hf⟩
  · simp only [List.mem_cons, List.not_mem_nil, or_false] at hi
    rcases hi with rfl | rfl | rfl <;> exact exec_frame_released rfl hd hrel

/-! ### Frames in sequence -/

@[simp] theorem sentOf_append (xs ys : List WriteRec) : sentOf (xs ++ ys) = sentOf xs ++ sentOf ys := List.flatMap_append

/-- Calls made after other calls are one run of calls. -/
theorem History.after_after (h : History) (tx : Transport) (xs ys : List WriteRec) :
    (h.after tx xs).after (tx.after (sentOf xs)) ys = h.after tx (xs ++ ys) := by
  simp [History.after]

/-- The block after one frame of these bytes, sent with an `Ok` call. -/
def Device.frameSent (d : Device) (bytes : List Byte) : Device := { d with tx := d.tx.after (sentOf (okCalls [bytes])) }

/-- The machine after one frame of these bytes, sent with an `Ok` call. -/
def State.frameSent (s : State) (d : Device) (bytes : List Byte) : State :=
  { s.afterCalls d (okCalls [bytes]) with ret := .result .ok }

theorem State.Ready.frameSent {s : State} {d : Device} (hr : s.Ready d) (bytes : List Byte) :
    (s.frameSent d bytes).Ready (d.frameSent bytes) where
  dev_eq := rfl
  seq_idle := hr.seq_idle
  usable := Transport.after_usable hr.usable _
  rel_eq := hr.rel_eq

theorem State.WritesOk.mono {s : State} {d : Device} {m k : Nat} (h : s.WritesOk d k) (hmk : m ≤ k) :
    s.WritesOk d m := by
  rcases h with live | script
  · exact .inl live
  · exact .inr fun i hi => script i (by omega)

theorem State.WritesOk.frameSent {s : State} {d : Device} {k : Nat} (h : s.WritesOk d (k + 1)) (bytes : List Byte) :
    (s.frameSent d bytes).WritesOk (d.frameSent bytes) k := by
  rcases h with ⟨live, cannotFail⟩ | script
  · exact .inl ⟨live, (Transport.after_writeCannotFail _ _ _).trans cannotFail⟩
  · refine .inr fun i hi => ?_
    have shift : (s.frameSent d bytes).env.writeTick + i = s.env.writeTick + (i + 1) := by
      simp [State.frameSent, State.afterCalls, okCalls, Nat.add_assoc, Nat.add_comm 1]
    rw [shift]
    exact script (i + 1) (by omega)

/-- Frames given one after the other, each with an `Ok` call, leave the block and the history after all of those calls. -/
theorem execAll_frames_ok {is : List Instr} {s : State} {d : Device} {seqs : List (List Byte)} (hr : s.Ready d)
    (hok : s.WritesOk d is.length) (henc : is.map (encodeFrame d.endLen) = seqs.map some) :
    ∃ u, execAll is s = .next u ∧ u.hist = s.hist.after d.tx (okCalls seqs) ∧
      u.dev = some { d with tx := d.tx.after (sentOf (okCalls seqs)) } := by
  induction is generalizing s d seqs with
  | nil =>
    obtain rfl := List.map_eq_nil_iff.mp henc.symm
    exact ⟨s, rfl, by simp [History.after, okCalls, sentOf], by simpa [okCalls, sentOf] using hr.dev_eq⟩
  | cons i is ih =>
    cases seqs with
    | nil => cases henc
    | cons bytes seqs =>
      obtain ⟨hi, his⟩ := List.cons.inj henc
      obtain ⟨u, hu, hhist, hdev⟩ := ih (hr.frameSent bytes) (hok.frameSent bytes) his
      have calls : okCalls (bytes :: seqs) = okCalls [bytes] ++ okCalls seqs := rfl
      refine ⟨u, ?_, ?_, ?_⟩
      · rw [execAll, exec_frame_ok hi hr hok]
        exact hu
      · rw [calls, ← History.after_after]
        exact hhist
      · rw [calls, sentOf_append, Transport.after_append]
        exact hdev

/-- The frames of a block of marked records are its two zero frames around the bytes of its records (R17, R47). -/
theorem Device.frames_encode {d : Device} (h : d.WellFormed) :
    d.frames.map (encodeFrame d.endLen) = (zeros 4 :: d.pix.map Pixel.rawBytes ++ [zeros d.endLen]).map some := by
  have led : d.pix.map (fun p => encodeFrame d.endLen (.ledFrame p.field p.blue p.green p.red)) =
      d.pix.map fun p => some p.rawBytes :=
    List.map_congr_left fun p hp => (ledFrameIsThePixelWord p (h.marked p hp)).1 d.endLen
  simp only [Device.frames, List.map_cons, List.map_append, List.map_map, List.map_nil, Function.comp_def, led]
  rfl

/-- Settles O31: the three calls of the flush and the calls of its frames send the same bytes. -/
theorem flushIsItsFramesInOrder : Obligations.FlushIsItsFramesInOrder := by
  intro s d hr hwf hok
  have count : d.frames.length ≤ d.n + 3 := by simp [Device.frames, hwf.length_pix]
  obtain ⟨u, hu, hhist, hdev⟩ := execAll_frames_ok hr (hok.mono count) (Device.frames_encode hwf)
  have same : sentOf (okCalls (zeros 4 :: d.pix.map Pixel.rawBytes ++ [zeros d.endLen])) =
      sentOf (okCalls d.flushCalls) := by
    simp [sentOf_okCalls, Device.flushCalls, Device.ledBytes, List.flatMap_def]
  refine ⟨_, u, exec_flush_ok hr (hok.mono (by omega)), hu, ?_, ?_, ?_⟩
  · rw [hhist, History.after, same]
    rfl
  · rw [hhist, History.after, same]
    rfl
  · rw [hdev, same]
    rfl

end Sys2Proof.Machine
end

section
/-!
PROOFS. Each composed operation agrees with its expansion (30_encoding.md R66): two writes of one record, one write of every record
in order, and the teardown with its clear and its flush.
-/

namespace Sys2Proof.Machine

@[simp] theorem andThen_next (s : State) (f : State → Host.Outcome State Fault Refusal) : andThen (.next s) f = f s := rfl

theorem andThen_next_right (o : Host.Outcome State Fault Refusal) : andThen o .next = o := by cases o <;> rfl

theorem execAll_pair (i j : Instr) (s : State) : execAll [i, j] s = andThen (exec i s) (exec j) := by
  simp only [execAll]
  congr 1
  funext t
  exact andThen_next_right _

/-! ### Two writes -/

/-- Two Pixel writes one after the other are one write of both. -/
theorem andThen_runPixelOp (s : State) (f g : Device → Device) :
    andThen (s.runPixelOp f) (State.runPixelOp · g) = s.runPixelOp (g ∘ f) := by
  cases hd : s.dev with
  | none => simp [State.runPixelOp, State.withBlock_none hd, andThen]
  | some d => rw [State.runPixelOp_eq hd, State.runPixelOp_eq hd, andThen_next, State.runPixelOp_eq rfl]; rfl

/-- Two in-memory commands one after the other are one of both. -/
theorem andThen_runSetter (s : State) (f g : Device → Device) :
    andThen (s.runSetter f) (State.runSetter · g) = s.runSetter (g ∘ f) := by
  cases hd : s.dev with
  | none => simp [State.runSetter, State.runCommand, State.withBlock_none hd, andThen]
  | some d => rw [State.runSetter_eq hd, State.runSetter_eq hd, andThen_next, State.runSetter_eq rfl]; rfl

theorem Device.modifyPixel_modifyPixel (d : Device) (i : Index) (f g : Pixel → Pixel) :
    (d.modifyPixel i f).modifyPixel i g = d.modifyPixel i (g ∘ f) := by
  unfold Device.modifyPixel
  split_ifs with h
  · simp [List.modify_modify_eq]
  · rfl

theorem exec_pxSetRgbb (s : State) (i : Index) (r g b : Byte) (x : F32) :
    exec (.pxSetRgbb i r g b x) s = execAll [.pxSetRgb i r g b, .pxSetBrightness i x] s := by
  have both := andThen_runPixelOp s (Device.modifyPixel · i (Pixel.setRgb r g b))
    (Device.modifyPixel · i (Pixel.setBrightness x))
  simp only [Function.comp_def, Device.modifyPixel_modifyPixel] at both
  rw [execAll_pair]
  exact both.symm

theorem exec_setPixelRgbb (s : State) (i : Index) (r g b : Byte) (x : F32) :
    exec (.setPixelRgbb i r g b x) s = execAll [.setPixel i r g b, .setPixelBrightness i x] s := by
  have both := andThen_runSetter s (Device.modifyPixel · i (Pixel.setRgb r g b))
    (Device.modifyPixel · i (Pixel.setBrightness x))
  simp only [Function.comp_def, Device.modifyPixel_modifyPixel] at both
  rw [execAll_pair]
  exact both.symm

/-! ### A write of every record -/

/-- In-memory commands one after the other are one command, where there is at least one of them. -/
theorem execAll_setters {s : State} {op : Nat → Instr} {f : Nat → Device → Device}
    (h : ∀ j (t : State), exec (op j) t = t.runSetter (f j)) {js : List Nat} (hne : js ≠ []) :
    execAll (js.map op) s = s.runSetter fun d => js.foldl (fun d j => f j d) d := by
  induction js generalizing s with
  | nil => exact absurd rfl hne
  | cons j js ih =>
    rw [List.map_cons, execAll, h]
    cases js with
    | nil => exact andThen_next_right _
    | cons k js =>
      have rest : execAll ((k :: js).map op) = (State.runSetter · fun d => (k :: js).foldl (fun d j => f j d) d) :=
        funext fun t => ih (List.cons_ne_nil k js)
      rw [rest, andThen_runSetter]
      rfl

/-- Writing the first `m` records in ascending order writes each of them once. -/
theorem Device.foldl_modifyPixel {d : Device} (hlen : d.pix.length = d.n) (hmax : d.n ≤ Config.nMax) (f : Pixel → Pixel)
    {m : Nat} (hm : m ≤ d.n) :
    (List.range m).foldl (fun d j => d.modifyPixel (BitVec.ofNat 16 j) f) d =
      { d with pix := (d.pix.take m).map f ++ d.pix.drop m } := by
  induction m with
  | zero => simp
  | succ m ih =>
    have idx : (BitVec.ofNat 16 m).toNat = m := by
      simp only [Config.nMax] at hmax
      rw [BitVec.toNat_ofNat, Nat.mod_eq_of_lt (by omega)]
    have written : ((d.pix.take m).map f).length = m := by simp; omega
    have next : m < d.pix.length := by omega
    rw [List.range_succ, List.foldl_append, ih (by omega), List.foldl_cons, List.foldl_nil, Device.modifyPixel, idx,
      if_pos (show m < d.n by omega)]
    simp only [List.modify_eq_take_drop, List.take_left' written, List.drop_left' written,
      List.drop_eq_getElem_cons next, List.take_succ_eq_append_getElem next, List.map_append, List.map_cons, List.map_nil,
      List.modifyHead_cons, List.append_assoc, List.cons_append, List.nil_append]

/-- A bulk command is its per-pixel command on every index in ascending order. -/
theorem runSetter_modifyAll_eq_execAll {s : State} {d : Device} (hd : s.dev = some d) (hlen : d.pix.length = d.n)
    (hmax : d.n ≤ Config.nMax) (hpos : 0 < d.n) (op : Index → Instr) {f : Pixel → Pixel}
    (h : ∀ i (t : State), exec (op i) t = t.runSetter (Device.modifyPixel · i f)) :
    s.runSetter (Device.modifyAll · f) = execAll ((List.range d.n).map fun j => op (BitVec.ofNat 16 j)) s := by
  have every := Device.foldl_modifyPixel hlen hmax f le_rfl
  rw [List.take_of_length_le hlen.le, List.drop_of_length_le hlen.le, List.append_nil] at every
  have nonempty : List.range d.n ≠ [] := by simpa using hpos.ne'
  rw [execAll_setters (fun j => h (BitVec.ofNat 16 j)) nonempty, State.runSetter_eq hd, State.runSetter_eq hd, every]
  rfl

/-! ### The teardown -/

/-- The transport row of a block's own variant (R81, R82). -/
def Transport.teardownRow : Transport → Instr
  | .gpio _ => .txTeardownGpio
  | .spi _ => .txTeardownSpi

@[simp] theorem Transport.teardownRow_after (tx : Transport) (bytes : List Byte) :
    (tx.after bytes).teardownRow = tx.teardownRow := by cases tx <;> rfl

section
variable {s : State} {d : Device} (hd : s.dev = some d)
include hd

/-- The row of the block's own variant runs `TX.TEARDOWN` and returns nothing. -/
theorem exec_teardownRow_ok {b : Block} (hb : Block.txTeardown { dev := d, hist := s.hist, env := s.env } = .ok b) :
    exec d.tx.teardownRow s = .next ((s.put b).answer .none) := by
  cases htx : d.tx with
  | gpio g => exact execTxTeardownGpio_eq hd htx hb
  | spi p =>
    simp only [Block.txTeardown, htx] at hb
    cases hb
    rw [State.put, ← hd]
    exact execTxTeardownSpi_eq hd htx

theorem exec_teardownRow_error {f : Fault}
    (hb : Block.txTeardown { dev := d, hist := s.hist, env := s.env } = .error f) :
    exec d.tx.teardownRow s = .fault f := by
  cases htx : d.tx with
  | gpio g => simp [Transport.teardownRow, exec, execTxTeardownGpio, State.withBlock_some hd, htx, hb]
  | spi p => simp [Block.txTeardown, htx] at hb

theorem State.runCommand_error {f : Block → Except Fault (Status × Block)} {e : Fault}
    (hf : f { dev := d, hist := s.hist, env := s.env } = .error e) : s.runCommand f = .fault e := by
  simp [State.runCommand, State.withBlock_some hd, hf]

end

/-- A flush keeps the block's variant (R76). -/
theorem flushBlock_teardownRow {p : Params} {b b' : Block} {st : Status} (hrel : b.dev.rel = false)
    (h : flushBlock p b = .ok (st, b')) : b'.dev.tx.teardownRow = b.dev.tx.teardownRow := by
  obtain ⟨calls, rfl, _⟩ := sendSections_cases ((flushBlock_live hrel).symm.trans h)
  exact Transport.teardownRow_after _ _

/-- The machine after a `CLEAR` of its block `d` (R89). -/
def State.afterClear (s : State) (d : Device) : State :=
  { s with dev := some (d.modifyAll Pixel.clear), status := .ok, done := true }

theorem exec_clear {s : State} {d : Device} (hd : s.dev = some d) : exec .clear s = .next (s.afterClear d) :=
  State.runSetter_eq hd (Device.modifyAll · Pixel.clear)

/-- The teardown with the flag set is the clear, the flush, the transport's teardown and `REL <- 1`, and it keeps the flush's
result (R97). -/
theorem exec_teardown_eq {s : State} {d : Device} (hd : s.dev = some d) (hcot : d.cot = true) (hrel : d.rel = false) :
    exec .teardown s =
      andThen (execAll [.clear, .flush] s) fun u =>
        andThen (exec d.tx.teardownRow u) fun v =>
          .next { v with dev := v.dev.map Device.markReleased, ret := s.ret } := by
  have policy : teardownBlock s.params { dev := d, hist := s.hist, env := s.env } =
      match flushBlock s.params { dev := d.modifyAll Pixel.clear, hist := s.hist, env := s.env } with
      | .error f => .error f
      | .ok (res, b) => releaseBlock res b := by
    simp only [teardownBlock, hrel, hcot, if_true, Bool.false_eq_true, if_false]
    rfl
  rw [execAll_pair, exec_clear hd, andThen_next]
  cases hflush : flushBlock s.params { dev := d.modifyAll Pixel.clear, hist := s.hist, env := s.env } with
  | error f =>
    rw [hflush] at policy
    have flush : exec .flush (s.afterClear d) = .fault f := State.runCommand_error (s := s.afterClear d) rfl hflush
    rw [flush]
    exact State.runCommand_error hd policy
  | ok out =>
    obtain ⟨res, b⟩ := out
    rw [hflush] at policy
    have flush : exec .flush (s.afterClear d) = .next (((s.afterClear d).put b).complete res) :=
      State.runCommand_ok (s := s.afterClear d) rfl hflush
    have row : b.dev.tx.teardownRow = d.tx.teardownRow := flushBlock_teardownRow hrel hflush
    rw [flush, andThen_next, ← row]
    cases hdown : b.txTeardown with
    | error f =>
      have released : releaseBlock res b = .error f := by simp [releaseBlock, hdown]
      rw [exec_teardownRow_error rfl hdown]
      exact State.runCommand_error hd (policy.trans released)
    | ok b' =>
      have released : releaseBlock res b = .ok (res, { b' with dev := b'.dev.markReleased }) := by
        simp [releaseBlock, hdown]
      rw [exec_teardownRow_ok rfl hdown]
      exact State.runCommand_ok hd (policy.trans released)

/-- Settles O24: two writes compose, a bulk write is the fold of its per-pixel writes, and the teardown is its policy. -/
theorem composedOperationsAgree : Obligations.ComposedOperationsAgree := by
  refine ⟨fun s i r g b x => ?_, fun s d r g b x hd hlen hmax hpos => ?_, fun s d hd hcot hrel => ?_⟩
  · exact ⟨exec_pxSetRgbb s i r g b x, rfl, rfl, rfl, exec_setPixelRgbb s i r g b x⟩
  · exact ⟨runSetter_modifyAll_eq_execAll hd hlen hmax hpos (.setPixel · r g b) fun _ _ => rfl,
      runSetter_modifyAll_eq_execAll hd hlen hmax hpos (.setPixelRgbb · r g b x) fun _ _ => rfl,
      runSetter_modifyAll_eq_execAll hd hlen hmax hpos (.setPixelBrightness · x) fun _ _ => rfl⟩
  · exact exec_teardown_eq hd hcot hrel

end Sys2Proof.Machine
end

section
/-!
SUPPORT. A binary32 pattern without its sign bit as a number (30_encoding.md R57): the magnitude it stands for grows with it, so
comparing patterns is comparing values (R59).
-/

namespace Sys2Proof.Machine

/-- The magnitude, in units of `2^-149`, of the non-negative pattern `n`; the infinite pattern stands for the next power of two. -/
def f32Mag (n : Nat) : Nat := if n / 2 ^ 23 = 0 then n else (2 ^ 23 + n % 2 ^ 23) * 2 ^ (n / 2 ^ 23 - 1)

theorem f32Mag_lt_succ (n : Nat) : f32Mag n < f32Mag (n + 1) := by
  unfold f32Mag
  obtain ⟨hdiv, hmod⟩ | ⟨hdiv, hmod, hlast⟩ :
      ((n + 1) / 2 ^ 23 = n / 2 ^ 23 ∧ (n + 1) % 2 ^ 23 = n % 2 ^ 23 + 1) ∨
      ((n + 1) / 2 ^ 23 = n / 2 ^ 23 + 1 ∧ (n + 1) % 2 ^ 23 = 0 ∧ n % 2 ^ 23 = 2 ^ 23 - 1) := by omega
  · rw [hdiv, hmod]
    split_ifs
    · omega
    · exact Nat.mul_lt_mul_of_pos_right (by omega) (Nat.two_pow_pos _)
  · rw [hdiv, hmod, hlast, if_neg (Nat.succ_ne_zero _)]
    split_ifs with hsub
    · rw [hsub]
      omega
    · obtain ⟨e, he⟩ := Nat.exists_eq_succ_of_ne_zero hsub
      rw [he, Nat.succ_sub_one, Nat.add_sub_cancel, Nat.pow_succ]
      have := Nat.two_pow_pos e
      omega

theorem f32Mag_strictMono : StrictMono f32Mag := strictMono_nat_of_lt_succ f32Mag_lt_succ

theorem f32Mag_zero : f32Mag 0 = 0 := rfl

/-- The sign bit splits the patterns in two halves. -/
theorem f32Neg_eq (w : F32) : f32Neg w = decide (2 ^ 31 ≤ w.toNat) := BitVec.msb_eq_decide w

/-- The key of a pattern is its sign and the magnitude of its other 31 bits; above the infinite pattern these are a NaN's. -/
theorem f32Key_eq (w : F32) :
    f32Key w =
      if w.toNat % 2 ^ 31 ≤ 0x7F800000 then
        some (if f32Neg w then -(f32Mag (w.toNat % 2 ^ 31) : Int) else f32Mag (w.toNat % 2 ^ 31))
      else none := by
  have hexp : f32Exp w = w.toNat % 2 ^ 31 / 2 ^ 23 := by
    simp only [f32Exp, BitVec.extractLsb'_toNat, Nat.shiftRight_eq_div_pow]
    omega
  have hfrac : f32Frac w = w.toNat % 2 ^ 31 % 2 ^ 23 := by
    simp only [f32Frac, BitVec.extractLsb'_toNat, Nat.shiftRight_eq_div_pow]
    omega
  have hlt : w.toNat % 2 ^ 31 < 2 ^ 31 := Nat.mod_lt _ (by decide)
  unfold f32Key f32Value f32Mag
  rw [hexp, hfrac]
  generalize w.toNat % 2 ^ 31 = n at hlt
  by_cases hinf : n / 2 ^ 23 = 255
  · rw [if_pos hinf]
    by_cases hzero : n % 2 ^ 23 = 0
    · rw [if_pos hzero, if_pos (show n ≤ 0x7F800000 by omega), if_neg (show ¬ n / 2 ^ 23 = 0 by omega), hinf, hzero]
      norm_num
    · rw [if_neg hzero, if_neg (show ¬ n ≤ 0x7F800000 by omega)]
  · rw [if_neg hinf, if_pos (show n ≤ 0x7F800000 by omega)]
    by_cases hsub : n / 2 ^ 23 = 0
    · rw [if_pos hsub, if_pos hsub, show n % 2 ^ 23 = n by omega]
    · rw [if_neg hsub, if_neg hsub]

/-- A non-negative number or plus infinity has the magnitude of its pattern. -/
theorem f32Key_of_le {w : F32} (h : w.toNat ≤ 0x7F800000) : f32Key w = some (f32Mag w.toNat : Int) := by
  have hpos : f32Neg w = false := by
    rw [f32Neg_eq]
    exact decide_eq_false (by omega)
  rw [f32Key_eq, Nat.mod_eq_of_lt (by omega), if_pos h, hpos]
  rfl

/-- A value that is not negative is the magnitude of some pattern; that of the negative zero is that of the zero. -/
theorem exists_f32Mag_of_key {w : F32} {x : Int} (h : f32Key w = some x) (hx : 0 ≤ x) : ∃ n : Nat, x = f32Mag n := by
  rw [f32Key_eq] at h
  split_ifs at h
  · cases h
    exact ⟨0, by rw [f32Mag_zero]; omega⟩
  · exact ⟨_, (Option.some.inj h).symm⟩

/-- A pattern above plus infinity is a negative number or a NaN. -/
theorem key_nonpos_of_lt {w : F32} (h : 0x7F800000 < w.toNat) {x : Int} (hx : f32Key w = some x) : x ≤ 0 := by
  rw [f32Key_eq] at hx
  split_ifs at hx with hnum hneg
  · cases hx
    exact Int.neg_nonpos_of_nonneg (Int.natCast_nonneg _)
  · rw [f32Neg_eq, decide_eq_true_eq] at hneg
    omega

end Sys2Proof.Machine
end

section
/-!
SUPPORT. Rounding to binary32 is monotone (30_encoding.md R58), and so is `enc5` in the value of its operand.
-/

namespace Sys2Proof.Machine

/-- Rounding to a multiple of `2^sh`, nearest, ties to even. -/
def roundAt (sh p : Nat) : Nat :=
  if 2 * (p % 2 ^ sh) > 2 ^ sh ∨ (2 * (p % 2 ^ sh) = 2 ^ sh ∧ p / 2 ^ sh % 2 = 1) then (p / 2 ^ sh + 1) * 2 ^ sh
  else p / 2 ^ sh * 2 ^ sh

theorem roundBinary32_eq (p : Nat) : roundBinary32 p = roundAt (Nat.log2 p - 23) p := rfl

theorem le_roundAt (sh p : Nat) : p / 2 ^ sh * 2 ^ sh ≤ roundAt sh p := by
  unfold roundAt
  split_ifs
  · exact Nat.mul_le_mul_right _ (Nat.le_succ _)
  · exact le_rfl

theorem roundAt_le (sh p : Nat) : roundAt sh p ≤ (p / 2 ^ sh + 1) * 2 ^ sh := by
  unfold roundAt
  split_ifs
  · exact le_rfl
  · exact Nat.mul_le_mul_right _ (Nat.le_succ _)

theorem roundAt_mono (sh : Nat) : Monotone (roundAt sh) := by
  intro p p' h
  rcases (Nat.div_le_div_right (c := 2 ^ sh) h).eq_or_lt with hq | hq
  · have hr : p % 2 ^ sh ≤ p' % 2 ^ sh := by
      have := Nat.div_add_mod p (2 ^ sh)
      have := Nat.div_add_mod p' (2 ^ sh)
      rw [hq] at *
      omega
    unfold roundAt
    rw [hq]
    split_ifs
    · exact le_rfl
    · omega
    · exact Nat.mul_le_mul_right _ (Nat.le_succ _)
    · exact le_rfl
  · calc roundAt sh p ≤ (p / 2 ^ sh + 1) * 2 ^ sh := roundAt_le sh p
      _ ≤ p' / 2 ^ sh * 2 ^ sh := Nat.mul_le_mul_right _ hq
      _ ≤ roundAt sh p' := le_roundAt sh p'

/-- Rounding leaves a number between the two powers of two it lies between. -/
theorem two_pow_log2_le_roundBinary32 {p : Nat} (hp : p ≠ 0) : 2 ^ Nat.log2 p ≤ roundBinary32 p := by
  obtain ⟨k, hk⟩ := Nat.exists_eq_add_of_le (Nat.sub_le (Nat.log2 p) 23)
  refine le_trans ?_ (le_roundAt _ p)
  calc 2 ^ Nat.log2 p = 2 ^ k * 2 ^ (Nat.log2 p - 23) := by rw [← Nat.pow_add, Nat.add_comm, ← hk]
    _ ≤ p / 2 ^ (Nat.log2 p - 23) * 2 ^ (Nat.log2 p - 23) := by
      refine Nat.mul_le_mul_right _ ((Nat.le_div_iff_mul_le (Nat.two_pow_pos _)).mpr ?_)
      rw [← Nat.pow_add, Nat.add_comm, ← hk]
      exact Nat.log2_self_le hp

theorem roundBinary32_le_two_pow (p : Nat) : roundBinary32 p ≤ 2 ^ (Nat.log2 p + 1) := by
  obtain ⟨k, hk⟩ := Nat.exists_eq_add_of_le (show Nat.log2 p - 23 ≤ Nat.log2 p + 1 by omega)
  have hq : p / 2 ^ (Nat.log2 p - 23) < 2 ^ k := by
    rw [Nat.div_lt_iff_lt_mul (Nat.two_pow_pos _), ← Nat.pow_add, Nat.add_comm, ← hk]
    exact Nat.lt_log2_self
  calc roundBinary32 p ≤ (p / 2 ^ (Nat.log2 p - 23) + 1) * 2 ^ (Nat.log2 p - 23) := roundAt_le _ p
    _ ≤ 2 ^ k * 2 ^ (Nat.log2 p - 23) := Nat.mul_le_mul_right _ hq
    _ = 2 ^ (Nat.log2 p + 1) := by rw [← Nat.pow_add, Nat.add_comm, ← hk]

theorem roundBinary32_mono : Monotone roundBinary32 := by
  intro p p' h
  obtain rfl | hp := eq_or_ne p 0
  · exact Nat.zero_le _
  have hp' : p' ≠ 0 := by omega
  have hlog : Nat.log2 p ≤ Nat.log2 p' := (Nat.le_log2 hp').mpr ((Nat.log2_self_le hp).trans h)
  rcases hlog.eq_or_lt with heq | hlt
  · rw [roundBinary32_eq, roundBinary32_eq, heq]
    exact roundAt_mono _ h
  · calc roundBinary32 p ≤ 2 ^ (Nat.log2 p + 1) := roundBinary32_le_two_pow p
      _ ≤ 2 ^ Nat.log2 p' := Nat.pow_le_pow_right (by decide) hlt
      _ ≤ roundBinary32 p' := two_pow_log2_le_roundBinary32 hp'

/-- The field of a magnitude in units of `2^-149` (R58). -/
def fieldOfMag (m : Nat) : Nat := roundBinary32 (31 * min m f32One) / f32One

theorem fieldOfMag_mono : Monotone fieldOfMag := fun _ _ h =>
  Nat.div_le_div_right (roundBinary32_mono (Nat.mul_le_mul_left 31 (min_le_min_right f32One h)))

theorem fieldOfMag_of_one_le {m : Nat} (h : f32One ≤ m) : fieldOfMag m = 31 := by
  rw [fieldOfMag, min_eq_right h]
  decide

theorem fieldOfMag_le (m : Nat) : fieldOfMag m ≤ 31 := by
  rcases le_total f32One m with h | h
  · exact (fieldOfMag_of_one_le h).le
  · exact (fieldOfMag_mono h).trans (fieldOfMag_of_one_le le_rfl).le

/-- The clamp reads the value only: below zero it is zero. -/
theorem clampUnit_of_key {w : F32} {x : Int} (h : f32Key w = some x) :
    clampUnit (f32Value w) = some (min x.toNat f32One) := by
  unfold f32Key at h
  split at h
  · cases h
  next neg hv =>
    cases h
    rw [hv]
    cases neg <;> rfl
  next neg mag hv =>
    cases h
    rw [hv]
    cases neg <;> simp [clampUnit]

theorem enc5_toNat {w : F32} {x : Int} (h : f32Key w = some x) : (enc5 w).toNat = fieldOfMag x.toNat := by
  have hlt : fieldOfMag x.toNat < 2 ^ 5 := Nat.lt_succ_of_le (fieldOfMag_le _)
  simp only [enc5, clampUnit_of_key h, BitVec.toNat_ofNat]
  exact Nat.mod_eq_of_lt hlt

theorem enc5_of_nan {w : F32} (h : f32Key w = none) : enc5 w = 0 := by
  unfold f32Key at h
  split at h
  next hv => simp [enc5, hv, clampUnit]
  next => cases h
  next => cases h

theorem enc5_of_nonpos {w : F32} {x : Int} (h : f32Key w = some x) (hx : x ≤ 0) : enc5 w = 0 := by
  apply BitVec.eq_of_toNat_eq
  rw [enc5_toNat h, Int.toNat_of_nonpos hx]
  decide

/-- Settles O9: the clamp makes the product 0 or 31 exactly. -/
theorem enc5ClampsAndMapsNanToZero : Obligations.Enc5ClampsAndMapsNanToZero := by
  refine ⟨fun w x h => ⟨enc5_of_nonpos h, fun hx => ?_⟩, fun w => enc5_of_nan⟩
  have hone : f32One ≤ x.toNat := by unfold f32One; omega
  apply BitVec.eq_of_toNat_eq
  rw [enc5_toNat h, fieldOfMag_of_one_le hone]
  rfl

end Sys2Proof.Machine
end

section
/-!
PROOFS. The thresholds of `enc5` are the values of `dec5` (30_encoding.md R59 to R61): field `k` begins at the pattern `dec5 k`.
-/

namespace Sys2Proof.Machine

/-! ### Finite facts about the 32 fields -/

theorem dec5_toNat_le (k : Field) : (dec5 k).toNat ≤ 0x3F800000 := by
  revert k
  decide

theorem dec5_zero : dec5 0 = 0 := by decide

theorem f32Mag_dec5_zero : f32Mag (dec5 0).toNat = 0 := by rw [dec5_zero]; rfl

theorem f32Mag_dec5_top : f32Mag (dec5 31).toNat = 2 ^ 149 := by decide

/-- The threshold of field `j + 1` is what that field decodes to (R59, R60). -/
theorem thresholds_eq : thresholds = (List.range 31).map fun j => dec5 (BitVec.ofNat 5 (j + 1)) := by decide

/-- The product reaches `k` at the pattern `dec5 k` and is below it at the pattern before. -/
theorem fieldOfMag_at_dec5 (k : Field) (hk : k ≠ 0) :
    k.toNat ≤ fieldOfMag (f32Mag (dec5 k).toNat) ∧ 0 < (dec5 k).toNat ∧
      fieldOfMag (f32Mag ((dec5 k).toNat - 1)) < k.toNat := by
  revert k
  decide

/-- The last pattern of a field is above its decoded value by at most `1/31`. -/
theorem f32Mag_before_next (k : Field) (hk : k ≠ 31) :
    (k + 1).toNat = k.toNat + 1 ∧ 31 * f32Mag ((dec5 (k + 1)).toNat - 1) ≤ 31 * f32Mag (dec5 k).toNat + 2 ^ 149 := by
  revert k
  decide

/-- `k / 31` lies strictly between the midpoints from `dec5 k` to its two neighbours. -/
theorem dec5_between_midpoints (k : Field) :
    2 * (k.toNat * 2 ^ 149) < 31 * (f32Mag (dec5 k).toNat + f32Mag ((dec5 k).toNat + 1)) ∧
      (k ≠ 0 → 31 * (f32Mag ((dec5 k).toNat - 1) + f32Mag (dec5 k).toNat) < 2 * (k.toNat * 2 ^ 149)) := by
  revert k
  decide

/-! ### The threshold form (R59) -/

/-- The field of a pattern is at least `k` exactly from the pattern `dec5 k` on. -/
theorem le_fieldOfMag_iff {k : Field} (hk : k ≠ 0) (n : Nat) :
    k.toNat ≤ fieldOfMag (f32Mag n) ↔ (dec5 k).toNat ≤ n := by
  obtain ⟨reached, pos, before⟩ := fieldOfMag_at_dec5 k hk
  constructor
  · intro h
    by_contra hlt
    have := fieldOfMag_mono (f32Mag_strictMono.monotone (show n ≤ (dec5 k).toNat - 1 by omega))
    omega
  · exact fun h => reached.trans (fieldOfMag_mono (f32Mag_strictMono.monotone h))

theorem countP_lt_range {m : Nat} (h : m ≤ 31) : (List.range 31).countP (fun j => decide (j < m)) = m := by
  interval_cases m <;> decide

/-- Threshold number `j + 1` is at or below a pattern exactly where the field of the pattern is above `j`. -/
theorem countP_thresholds (n : Nat) :
    thresholds.countP (fun t => decide (t.toNat ≤ n)) = fieldOfMag (f32Mag n) := by
  rw [thresholds_eq, List.countP_map, ← countP_lt_range (fieldOfMag_le (f32Mag n))]
  apply List.countP_congr
  intro j hj
  rw [List.mem_range] at hj
  have hval : (BitVec.ofNat 5 (j + 1)).toNat = j + 1 := by
    rw [BitVec.toNat_ofNat, Nat.mod_eq_of_lt (by omega)]
  have hne : BitVec.ofNat 5 (j + 1) ≠ 0 := fun h => by simp [h] at hval
  have hiff := le_fieldOfMag_iff hne n
  rw [hval] at hiff
  simpa using hiff.symm

/-- Settles O7: up to plus infinity both forms count the fields that begin at or below the pattern; above it both are 0. -/
theorem enc5EqualsItsThresholdForm : Obligations.Enc5EqualsItsThresholdForm := by
  intro w
  unfold enc5ByThresholds
  split_ifs with h
  · apply BitVec.eq_of_toNat_eq
    have hlt : fieldOfMag (f32Mag w.toNat) < 2 ^ 5 := Nat.lt_succ_of_le (fieldOfMag_le _)
    rw [enc5_toNat (f32Key_of_le h), countP_thresholds, BitVec.toNat_ofNat, Nat.mod_eq_of_lt hlt, Int.toNat_natCast]
  · cases hk : f32Key w with
    | none => exact enc5_of_nan hk
    | some x => exact enc5_of_nonpos hk (key_nonpos_of_lt (by omega) hk)

/-! ### The nearest value (R60) -/

theorem f32Key_dec5 (k : Field) : f32Key (dec5 k) = some (f32Mag (dec5 k).toNat : Int) :=
  f32Key_of_le ((dec5_toNat_le k).trans (by decide))

theorem thresholds_getElem? (k : Field) (hk : k ≠ 0) : thresholds[k.toNat - 1]? = some (dec5 k) := by
  revert k
  decide

/-- Another value than that of `dec5 k` is beyond the midpoint to a neighbour of `dec5 k`, on its own side. -/
theorem key_beyond_midpoint (k : Field) {w : F32} {x : Int} (hx : f32Key w = some x) (hne : x ≠ f32Mag (dec5 k).toNat) :
    ((f32Mag (dec5 k).toNat : Int) < x ∧ 2 * ((k.toNat : Int) * 2 ^ 149) < 31 * (x + f32Mag (dec5 k).toNat)) ∨
      (x < f32Mag (dec5 k).toNat ∧ 31 * (x + f32Mag (dec5 k).toNat) < 2 * ((k.toNat : Int) * 2 ^ 149)) := by
  obtain ⟨above, below⟩ := dec5_between_midpoints k
  have zero : k = 0 → k.toNat * 2 ^ 149 = 0 ∧ (dec5 k).toNat = 0 := by rintro rfl; decide
  rw [show (k.toNat : Int) * 2 ^ 149 = (k.toNat * 2 ^ 149 : Nat) by push_cast; rfl]
  generalize k.toNat * 2 ^ 149 = target at *
  generalize (dec5 k).toNat = n at *
  have next {m : Nat} (h : n < m) : f32Mag (n + 1) ≤ f32Mag m := f32Mag_strictMono.monotone h
  have prev {m : Nat} (h : m < n) : f32Mag m ≤ f32Mag (n - 1) := f32Mag_strictMono.monotone (Nat.le_sub_one_of_lt h)
  generalize f32Mag (n + 1) = up at *
  generalize f32Mag (n - 1) = down at *
  by_cases hneg : x < 0
  · by_cases hk : k = 0
    · obtain ⟨rfl, rfl⟩ := zero hk
      rw [f32Mag_zero]
      omega
    · have := below hk
      omega
  · obtain ⟨m, rfl⟩ := exists_f32Mag_of_key hx (by omega)
    rcases Nat.lt_trichotomy m n with hlt | rfl | hgt
    · have := below fun hk => Nat.not_lt_zero m ((zero hk).2 ▸ hlt)
      have := prev hlt
      have := f32Mag_strictMono hlt
      omega
    · exact absurd rfl hne
    · have := next hgt
      have := f32Mag_strictMono hgt
      omega

/-- Settles O10: every other value lies beyond the midpoint to a neighbour, so it is farther from `k / 31`. -/
theorem dec5IsTheNearestBinary32 : Obligations.Dec5IsTheNearestBinary32 := by
  refine ⟨fun k => ⟨_, f32Key_dec5 k, fun w x hx hne => ?_⟩, dec5_zero, thresholds_getElem?, fun p q h => ?_⟩
  · rcases key_beyond_midpoint k hx hne with ⟨hlt, hmid⟩ | ⟨hlt, hmid⟩
    · exact (abs_lt.mpr (by omega)).trans_le (le_abs_self _)
    · exact (abs_lt.mpr (by omega)).trans_le (neg_le_abs _)
  · rw [Pixel.brightness, Pixel.brightness, Pixel.field, Pixel.field, h]

/-! ### The laws of the pair (R61) -/

theorem enc5_dec5 (k : Field) : enc5 (dec5 k) = k := by
  revert k
  decide

/-- The decoded field of a value in `[0, 1]` is at most the value, and below it by at most `1/31`. -/
theorem dec5_enc5_near {w : F32} {x : Int} (h : f32Key w = some x) (lo : 0 ≤ x) (hi : x ≤ 2 ^ 149) :
    (f32Mag (dec5 (enc5 w)).toNat : Int) ≤ x ∧ 31 * (x - f32Mag (dec5 (enc5 w)).toNat) ≤ 2 ^ 149 := by
  obtain ⟨n, rfl⟩ := exists_f32Mag_of_key h lo
  have hfield : (enc5 w).toNat = fieldOfMag (f32Mag n) := by rw [enc5_toNat h, Int.toNat_natCast]
  generalize enc5 w = k at hfield
  constructor
  · by_cases hk : k = 0
    · rw [hk, f32Mag_dec5_zero]
      exact lo
    · exact Int.ofNat_le.mpr (f32Mag_strictMono.monotone ((le_fieldOfMag_iff hk n).mp hfield.le))
  · by_cases hk : k = 31
    · rw [hk, f32Mag_dec5_top]
      omega
    · obtain ⟨hsucc, hgap⟩ := f32Mag_before_next k hk
      have hnext : k + 1 ≠ 0 := fun h =>
        Nat.succ_ne_zero _ (hsucc.symm.trans (congrArg BitVec.toNat h))
      have hbelow : n < (dec5 (k + 1)).toNat := by
        by_contra hle
        have := (le_fieldOfMag_iff hnext n).mpr (by omega)
        omega
      have := f32Mag_strictMono.monotone (show n ≤ (dec5 (k + 1)).toNat - 1 by omega)
      omega

/-- Settles O8: (b) is `dec5_enc5_near`, and (d) is that rounding is monotone. -/
theorem brightnessPairLaws : Obligations.BrightnessPairLaws := by
  refine ⟨enc5_dec5, fun w x hx lo hi => ?_, by decide, fun v w x y hx hy hxy => ?_⟩
  · obtain ⟨below, near⟩ := dec5_enc5_near hx lo hi
    exact ⟨brightnessHdr_marked w, _, f32Key_dec5 _, by omega, near⟩
  · rw [enc5_toNat hx, enc5_toNat hy]
    exact fieldOfMag_mono (Int.toNat_le_toNat hxy)

end Sys2Proof.Machine
end

section
/-!
PROOFS. The Pixel operations on a record that exists, and the default record (40_pixel.md R67 to R75; log 8, log 10).
-/

namespace Sys2Proof.Machine

/-! ### The bytes a write gives its record -/

theorem Pixel.setBrightness_eq (x : F32) (p : Pixel) :
    p.setBrightness x = { hdr := 0b111#3 ++ enc5 x, blue := p.blue, green := p.green, red := p.red } := by
  rw [Pixel.setBrightness, brightnessHdr_eq_append]

theorem Pixel.setRgbb_eq (r g b : Byte) (x : F32) (p : Pixel) :
    p.setRgbb r g b x = { hdr := 0b111#3 ++ enc5 x, blue := b, green := g, red := r } :=
  Pixel.setBrightness_eq x (p.setRgb r g b)

/-! ### Reading and writing the selected record (R32) -/

section
variable {d : Device} {i : Index} (hi : i.toNat < d.n)
include hi

theorem Device.pixelAt_of_lt : d.pixelAt i = d.pix[i.toNat]? := if_pos hi

/-- A write on a record leaves every other one: the buffer is rewritten position by position. -/
theorem Device.modifyPixel_of_lt (f : Pixel → Pixel) :
    d.modifyPixel i f = { d with pix := d.pix.mapIdx fun j p => if j = i.toNat then f p else p } := by
  have positions : d.pix.modify i.toNat f = d.pix.mapIdx fun j p => if j = i.toNat then f p else p :=
    List.ext_getElem (by simp) fun j _ _ => by simp [List.getElem_modify, eq_comm]
  rw [Device.modifyPixel, if_pos hi, positions]

variable {s : State} (hd : s.dev = some d)
include hd

/-- `g` is what the rule says that the write `f` makes of a record. -/
theorem runPixelOp_of_record {f g : Pixel → Pixel} (hfg : ∀ p, f p = g p) :
    s.runPixelOp (Device.modifyPixel · i f) = .next
      { s with
        dev := some { d with pix := d.pix.mapIdx fun j p => if j = i.toNat then g p else p }
        ret := .none } := by
  rw [State.runPixelOp_eq hd, Device.modifyPixel_of_lt hi, funext hfg]

theorem runGetter_of_record {p : Pixel} (hp : d.pix[i.toNat]? = some p) (f : Pixel → Ret) :
    s.runGetter i f = .next { s with ret := f p } := by
  rw [State.runGetter_eq hd, Device.pixelAt_of_lt hi, hp]
  rfl

end

/-- Settles O11: each operation is one write on the selected record, and the header it assembles is the marker over the
field. -/
theorem pixelWritesChangeTheirBytes : Obligations.PixelWritesChangeTheirBytes := by
  intro s d i r g b x hd hi
  refine ⟨?setRgb, ?setBrightness, ?setRgbb, ?clear⟩
  case setRgb => exact runPixelOp_of_record hi hd fun _ => rfl
  case setBrightness => exact runPixelOp_of_record hi hd (Pixel.setBrightness_eq x)
  case setRgbb => exact runPixelOp_of_record hi hd (Pixel.setRgbb_eq r g b x)
  case clear => exact runPixelOp_of_record hi hd fun _ => rfl

/-- Settles O12: each getter reads the selected record. -/
theorem pixelGettersReturnTheirValues : Obligations.PixelGettersReturnTheirValues := by
  intro s d i p hd hi hp
  have read (f : Pixel → Ret) : s.runGetter i f = .next { s with ret := f p } := runGetter_of_record hi hd hp f
  exact ⟨read _, read _, read _, read _⟩

/-! ### The default record (R75) -/

/-- The field of `0xE7` is 7, and `0x3E6739CE` is the binary32 value nearest to `7 / 31`. -/
theorem Pixel.default_brightness : Pixel.default.brightness = 0x3E6739CE := by decide

/-- Encoding that value comes back to the field 7, which goes under the marker. -/
theorem brightnessHdr_default_brightness : brightnessHdr Pixel.default.brightness = Pixel.default.hdr := by
  rw [brightnessHdr_eq_append, Pixel.brightness, enc5_dec5]
  decide

/-- Settles O14: the record is written by bytes, and the pair `enc5`, `dec5` agrees with its header. -/
theorem pixelDefaultIsTheDimHeader : Obligations.PixelDefaultIsTheDimHeader :=
  ⟨fun _ => rfl, Pixel.default_brightness, Pixel.default_brightness ▸ brightnessHdr_default_brightness⟩

end Sys2Proof.Machine
end

section
/-!
SUPPORT. One transport write call as an internal operation of the machine (41_transport.md R76, R78): its next state where it returned,
and what the environment's answer makes of it.
-/

namespace Sys2Proof.Machine

theorem State.runInternal_error {s : State} {d : Device} (hd : s.dev = some d)
    {f : Block → Except Fault (Status × Block)} {e : Fault}
    (hf : f { dev := d, hist := s.hist, env := s.env } = .error e) : s.runInternal f = .fault e := by
  simp [State.runInternal, State.withBlock_some hd, hf]

section
variable {s : State} {d : Device} (bytes : List Byte)

/-- A write call that returned leaves the block after that one call, and its result is what is returned. -/
theorem runInternal_txWrite (hd : s.dev = some d) {st : Status} {out : WriteOutcome}
    (hw : Block.txWrite s.params bytes { dev := d, hist := s.hist, env := s.env } =
      .ok (st, Block.recordWrite bytes out { dev := d, hist := s.hist, env := s.env })) :
    s.runInternal (Block.txWrite s.params bytes) =
      .next { s.afterCalls d [{ bytes := bytes, outcome := out }] with ret := .result st } := by
  rw [State.runInternal_ok hd hw, Block.recordWrite_eq]
  simp [State.put, State.answer, State.afterCalls, sentOf]

theorem runInternal_txWrite_ok (h : s.Holds d) (hok : s.WritesOk d 1) :
    s.runInternal (Block.txWrite s.params bytes) =
      .next { s.afterCalls d [{ bytes := bytes, outcome := .ok }] with ret := .result .ok } :=
  have blockOk : Block.WritesOk s.params { dev := d, hist := s.hist, env := s.env } (0 + 1) := hok
  runInternal_txWrite bytes h.dev_eq (Block.txWrite_ok h.usable (blockOk.nextOutcome bytes))

theorem State.WriteFailsAt.nextOutcome {j : Nat} (hf : s.WriteFailsAt d 0 j) :
    Block.nextOutcome s.params bytes { dev := d, hist := s.hist, env := s.env } = .fail (min j bytes.length) := by
  have answer : s.env.writeAnswer bytes = .fail j := by
    simp [Env.writeAnswer, show s.env.writeScript[s.env.writeTick]? = some (.fail j) from hf.fails]
  rw [Block.nextOutcome, answer, allowedOutcome_fail hf.can_fail]

theorem runInternal_txWrite_fail (h : s.Holds d) {j : Nat} (hf : s.WriteFailsAt d 0 j) :
    s.runInternal (Block.txWrite s.params bytes) =
      .next { s.afterCalls d [{ bytes := bytes, outcome := .fail (min j bytes.length) }] with
        ret := .result .hardware } :=
  runInternal_txWrite bytes h.dev_eq (Block.txWrite_fail h.usable (hf.nextOutcome bytes))

/-- Where every write returns, a call on held handles is recorded with some outcome (D24). -/
theorem runInternal_txWrite_live (h : s.Holds d) (hl : s.params.transportLive = true) :
    ∃ (o : WriteOutcome) (st : Status), s.runInternal (Block.txWrite s.params bytes) =
      .next { s.afterCalls d [{ bytes := bytes, outcome := o }] with ret := .result st } := by
  obtain ⟨st, b, hw⟩ := Block.txWrite_answers (bytes := bytes) (b := { dev := d, hist := s.hist, env := s.env }) h.usable hl
  obtain ⟨_, ⟨_, _, rfl⟩ | ⟨j, _, _, _, rfl⟩⟩ := Block.txWrite_cases hw
  · exact ⟨.ok, st, runInternal_txWrite bytes h.dev_eq hw⟩
  · exact ⟨.fail j, st, runInternal_txWrite bytes h.dev_eq hw⟩

theorem runInternal_txWrite_released (hd : s.dev = some d) (hu : d.tx.usable = false) :
    s.runInternal (Block.txWrite s.params bytes) = .fault .handleReleased :=
  State.runInternal_error hd (Block.txWrite_released hu)

end

end Sys2Proof.Machine
end

section
/-!
PROOFS. The statements of 41_transport.md about `TX.WRITE` (R76 to R80).
-/

namespace Sys2Proof.Machine

/-- Settles O33, by the three answers of a write call. -/
theorem txWriteSendsWhatTheAnswerSays : Obligations.TxWriteSendsWhatTheAnswerSays := fun _ _ bytes _ h =>
  ⟨runInternal_txWrite_ok bytes h, runInternal_txWrite_fail bytes h, runInternal_txWrite_live bytes h⟩

/-! ### What a call with one outcome sent -/

/-- A failure is recorded with at most the call's length, and the bytes sent are the first `j` all the same. -/
theorem sentOf_fail (bytes : List Byte) (j : Nat) :
    sentOf [{ bytes := bytes, outcome := .fail (min j bytes.length) }] = bytes.take j := by
  simp [sentOf, sentBytes, ← List.take_eq_take_min]

theorem sentOf_ok (bytes : List Byte) : sentOf [{ bytes := bytes, outcome := .ok }] = bytes := by
  simp [sentOf, sentBytes]

/-! ### The GPIO variant (R77) -/

/-- Sending bytes drives three pin operations for each bit of each byte, bit 7 first (R51, R77). -/
theorem pinOpsOf_eq_flatMap (bytes : List Byte) :
    pinOpsOf bytes = bytes.flatMap fun B => [7, 6, 5, 4, 3, 2, 1, 0].flatMap fun i =>
      [.data (B.getLsbD i), .clkHigh, .clkLow] :=
  List.flatMap_assoc

theorem pinOpsOf_length (bytes : List Byte) : (pinOpsOf bytes).length = 24 * bytes.length := by
  rw [pinOpsOf_eq_flatMap]
  simp [List.length_flatMap, Nat.mul_comm]

/-- After at least one byte the data line is at bit 0 of the last one and the clock is low (R27). -/
theorem GpioPort.actAll_pinOpsOf_concat (g : GpioPort) (bytes : List Byte) (B : Byte) :
    g.actAll (pinOpsOf (bytes ++ [B])) = { g with data := .held (B.getLsbD 0), clk := .held false } := by
  have last : (bitsOf (bytes ++ [B])).getLast? = some (B.getLsbD 0) := by
    rw [bitsOf_append, List.getLast?_append]
    rfl
  rw [pinOpsOf, GpioPort.actAll_bitCells, last]

/-- The two handles after bytes were sent, nothing sent leaving both. -/
theorem GpioPort.actAll_pinOpsOf (g : GpioPort) (bytes : List Byte) :
    g.actAll (pinOpsOf bytes) =
      { g with
        data := match bytes.getLast? with | none => g.data | some B => .held (B.getLsbD 0)
        clk := if bytes = [] then g.clk else .held false } := by
  rcases bytes.eq_nil_or_concat' with rfl | ⟨init, B, rfl⟩
  · rfl
  · rw [GpioPort.actAll_pinOpsOf_concat]
    simp

/-- A call on the GPIO variant drives and logs the pin operations of the bytes it sent. -/
theorem State.afterCalls_gpio {d : Device} {g : GpioPort} (hg : d.tx = .gpio g) (s : State) (r : WriteRec) :
    s.afterCalls d [r] =
      { s with
        dev := some { d with tx := .gpio (g.actAll (pinOpsOf (sentOf [r]))) }
        hist :=
          { writes := s.hist.writes ++ [r]
            wire := s.hist.wire ++ sentOf [r]
            pinlog := s.hist.pinlog ++ pinOpsOf (sentOf [r]) }
        env := { s.env with writeTick := s.env.writeTick + 1 } } := by
  simp [State.afterCalls, History.after, hg, Transport.after, Transport.pinOpsFor]

/-- Settles O34: the row runs the write call, and the pins it drives are those of the bytes sent. -/
theorem gpioWriteBitBangs : Obligations.GpioWriteBitBangs := by
  intro s d g bytes j h hg
  have row : exec (.txWriteGpio bytes) s = s.runInternal (Block.txWrite s.params bytes) :=
    execTxWriteGpio_eq h.dev_eq hg bytes
  refine ⟨fun sent => ?length, fun hok => ?ok, fun hf => ⟨?canFail, ?fail⟩⟩
  case length =>
    have length := pinOpsOf_length sent
    rwa [pinOpsOf_eq_flatMap] at length
  case ok =>
    have call := runInternal_txWrite_ok bytes h hok
    rw [State.afterCalls_gpio hg, sentOf_ok, GpioPort.actAll_pinOpsOf, pinOpsOf_eq_flatMap] at call
    exact row.trans call
  case canFail => simpa [hg, Transport.writeCannotFail] using hf.can_fail
  case fail =>
    have call := runInternal_txWrite_fail bytes h hf
    rw [State.afterCalls_gpio hg, sentOf_fail, GpioPort.actAll_pinOpsOf, pinOpsOf_eq_flatMap] at call
    exact row.trans call

/-! ### The SPI variant (R79) -/

/-- A call on the SPI variant leaves the device and the pin log as they were. -/
theorem State.afterCalls_spi {s : State} {d : Device} {p : SpiPort} (hd : s.dev = some d) (hp : d.tx = .spi p)
    (r : WriteRec) :
    s.afterCalls d [r] =
      { s with
        hist := { s.hist with writes := s.hist.writes ++ [r], wire := s.hist.wire ++ sentOf [r] }
        env := { s.env with writeTick := s.env.writeTick + 1 } } := by
  have same : ({ d with tx := .spi p } : Device) = d := by rw [← hp]
  simp [State.afterCalls, History.after, hp, Transport.after, Transport.pinOpsFor, same, ← hd]

/-- Settles O35: the row runs the write call, which on this variant drives no pin. -/
theorem spiWriteForwardsTheBuffer : Obligations.SpiWriteForwardsTheBuffer := by
  intro s d p bytes j h hp
  have row : exec (.txWriteSpi bytes) s = s.runInternal (Block.txWrite s.params bytes) :=
    execTxWriteSpi_eq h.dev_eq hp bytes
  refine ⟨fun hok => ?ok, fun hf => ?fail⟩
  case ok => rw [row, runInternal_txWrite_ok bytes h hok, State.afterCalls_spi h.dev_eq hp, sentOf_ok]
  case fail => rw [row, runInternal_txWrite_fail bytes h hf, State.afterCalls_spi h.dev_eq hp, sentOf_fail]

/-! ### Every failure length (R78, U6) -/

/-- The environment that fails the next write call with `j` bytes sent. -/
def Env.failNext (e : Env) (j : Nat) : Env := { e with writeScript := List.replicate e.writeTick .ok ++ [.fail j] }

theorem State.writeFailsAt_failNext {s : State} {d : Device} (hc : d.tx.writeCannotFail s.params = false) (j : Nat) :
    State.WriteFailsAt { s with env := s.env.failNext j } d 0 j where
  can_fail := hc
  before := fun _ hi => absurd hi (Nat.not_lt_zero _)
  fails := by simp [Env.failNext]

/-- Settles O36: the script's next answer is the failure asked for. -/
theorem everyFailureLengthIsAdmitted : Obligations.EveryFailureLengthIsAdmitted := by
  intro s d bytes j h hc hj
  have held : State.Holds { s with env := s.env.failNext j } d := ⟨h.dev_eq, h.seq_idle, h.usable⟩
  have fails := runInternal_txWrite_fail bytes held (State.writeFailsAt_failNext hc j)
  refine ⟨s.env.failNext j, _, rfl, fails, ?_, ?_, rfl⟩
  · simp [State.afterCalls, History.after, hj]
  · simp [State.afterCalls, History.after, sentOf_fail]

end Sys2Proof.Machine
end

section
/-!
PROOFS. The statements of 41_transport.md about `TX.TEARDOWN` (R81, R82) and about where the transport stops (log 11).
-/

namespace Sys2Proof.Machine

/-- Settles O37: the teardown of a held transport, by its variant. -/
theorem txTeardownReleasesThePins : Obligations.TxTeardownReleasesThePins := by
  refine fun s d h => ⟨fun g hg => ?gpio, fun p hp => ?spi⟩
  case gpio =>
    refine (execTxTeardownGpio_eq h.dev_eq hg (Block.txTeardown_eq h.usable)).trans ?_
    simp [State.put, State.answer, hg, Transport.tornDown, Transport.releaseOps]
  case spi => exact execTxTeardownSpi_eq h.dev_eq hp

/-! ### The row of the other variant -/

section
variable {s : State} {d : Device} (hd : s.dev = some d)
include hd

theorem execTxWriteGpio_wrongVariant {p : SpiPort} (hp : d.tx = .spi p) (bytes : List Byte) :
    execTxWriteGpio bytes s = .refused .wrongVariant := by
  simp [execTxWriteGpio, State.withBlock_some hd, hp]

theorem execTxWriteSpi_wrongVariant {g : GpioPort} (hg : d.tx = .gpio g) (bytes : List Byte) :
    execTxWriteSpi bytes s = .refused .wrongVariant := by
  simp [execTxWriteSpi, State.withBlock_some hd, hg]

theorem execTxTeardownGpio_wrongVariant {p : SpiPort} (hp : d.tx = .spi p) :
    execTxTeardownGpio s = .refused .wrongVariant := by
  simp [execTxTeardownGpio, State.withBlock_some hd, hp]

theorem execTxTeardownSpi_wrongVariant {g : GpioPort} (hg : d.tx = .gpio g) :
    execTxTeardownSpi s = .refused .wrongVariant := by
  simp [execTxTeardownSpi, State.withBlock_some hd, hg]

theorem execDrop_error {f : Fault} (hb : teardownBlock s.params { dev := d, hist := s.hist, env := s.env } = .error f) :
    execDrop s = .fault f := by
  simp [execDrop, State.withBlock_some hd, hb]

end

/-! ### Handles that are not held -/

section
variable {p : Params} {b : Block} (hrel : b.dev.rel = false) (hu : b.dev.tx.usable = false)
include hrel hu

theorem flushBlock_unusable : flushBlock p b = .error .handleReleased :=
  (flushBlock_live hrel).trans (sendSections_released hu)

theorem frameBlock_unusable (ph : Phase) (bytes : List Byte) : frameBlock p ph bytes b = .error .handleReleased := by
  simp [frameBlock, hrel, sendSections_released hu]

/-- A teardown stops where it flushes, and where the pins are its own to release. -/
theorem teardownBlock_unusable (h : b.dev.cot = true ∨ ∃ g, b.dev.tx = .gpio g) :
    teardownBlock p b = .error .handleReleased := by
  cases hcot : b.dev.cot with
  | true =>
    have flush : flushBlock p b.clearPixels = .error .handleReleased := flushBlock_unusable (b := b.clearPixels) hrel hu
    simp [teardownBlock, hrel, hcot, flush]
  | false =>
    obtain ⟨g, hg⟩ := h.resolve_left (by simp [hcot])
    simp [teardownBlock, hrel, hcot, releaseBlock, Block.txTeardown_released hg hu]

end

/-- On handles the block does not hold a frame stops before it is sent. -/
theorem exec_frame_unusable {s : State} {d : Device} {i : Instr} {bytes : List Byte} (hd : s.dev = some d)
    (hrel : d.rel = false) (hu : d.tx.usable = false) (henc : encodeFrame d.endLen i = some bytes) :
    exec i s = .fault .handleReleased := by
  obtain ⟨ph, h⟩ := exec_frame_eq hd henc
  exact h.trans (State.runInternal_error hd (frameBlock_unusable hrel hu ph bytes))

/-- Settles O38: the rows by the block's variant, and the rest by the first thing each does to handles not held. -/
theorem transportStopsByName : Obligations.TransportStopsByName := by
  intro s d bytes k blue green red hd
  refine ⟨fun g hg => ⟨?_, ?_⟩, fun p hp => ⟨?_, ?_⟩, fun hu => ⟨?write, ?gpio, ?spi, fun hrel => ⟨?sends, ?teardown⟩⟩⟩
  · exact execTxWriteSpi_wrongVariant hd hg bytes
  · exact execTxTeardownSpi_wrongVariant hd hg
  · exact execTxWriteGpio_wrongVariant hd hp bytes
  · exact execTxTeardownGpio_wrongVariant hd hp
  case write => exact runInternal_txWrite_released bytes hd hu
  case gpio =>
    intro g hg
    have teardown := exec_teardownRow_error hd (Block.txTeardown_released hg hu)
    rw [hg] at teardown
    exact ⟨(execTxWriteGpio_eq hd hg bytes).trans (runInternal_txWrite_released bytes hd hu), teardown⟩
  case spi =>
    intro p hp
    exact (execTxWriteSpi_eq hd hp bytes).trans (runInternal_txWrite_released bytes hd hu)
  case sends =>
    have flush : s.runCommand (flushBlock s.params) = .fault .handleReleased :=
      State.runCommand_error hd (flushBlock_unusable hrel hu)
    simp only [List.forall_mem_cons, List.not_mem_nil, false_imp_iff, implies_true, and_true]
    exact ⟨flush, flush, exec_frame_unusable hd hrel hu rfl, exec_frame_unusable hd hrel hu rfl,
      exec_frame_unusable hd hrel hu rfl⟩
  case teardown =>
    intro h
    have teardown := teardownBlock_unusable (p := s.params) (b := { dev := d, hist := s.hist, env := s.env }) hrel hu h
    exact ⟨State.runCommand_error hd teardown, execDrop_error hd teardown⟩

end Sys2Proof.Machine
end

section
/-!
PROOFS. The buffer and flag commands of the Device Controller (42_controller_setters.md R83 to R91).
-/

namespace Sys2Proof.Machine

/-! ### Per-pixel commands (R83 to R85) -/

/-- A write to one record, in range or not, rewrites the buffer position by position: an index at or above `N` is no position of a
buffer with `N` records (R32). -/
theorem Device.modifyPixel_eq_mapIdx {d : Device} (hlen : d.pix.length = d.n) (i : Index) (f : Pixel → Pixel) :
    d.modifyPixel i f = { d with pix := d.pix.mapIdx fun j p => if j = i.toNat then f p else p } := by
  by_cases hi : i.toNat < d.n
  · exact Device.modifyPixel_of_lt hi f
  · have le : d.n ≤ i.toNat := Nat.not_lt.mp hi
    have unchanged : (d.pix.mapIdx fun j p => if j = i.toNat then f p else p) = d.pix :=
      List.ext_getElem (by simp) fun j hj _ => by
        rw [List.length_mapIdx] at hj
        rw [List.getElem_mapIdx, if_neg (by omega)]
    rw [Device.modifyPixel_of_le le, unchanged]

section
variable {s : State} {d : Device} (hd : s.dev = some d)
include hd

/-- `g` is what the rule says that the write `f` makes of the record with its index. -/
theorem runSetter_modifyPixel {f g : Pixel → Pixel} (hfg : ∀ p, f p = g p) (hlen : d.pix.length = d.n) (i : Index) :
    s.runSetter (Device.modifyPixel · i f) = .next
      { s with
        dev := some { d with pix := d.pix.mapIdx fun j p => if j = i.toNat then g p else p }
        status := .ok
        done := true } := by
  rw [State.runSetter_eq hd, Device.modifyPixel_eq_mapIdx hlen, funext hfg]

/-- `g` is what the rule says that the write `f` makes of every record. -/
theorem runSetter_modifyAll {f g : Pixel → Pixel} (hfg : ∀ p, f p = g p) :
    s.runSetter (Device.modifyAll · f) = .next
      { s with dev := some { d with pix := d.pix.map g }, status := .ok, done := true } := by
  rw [State.runSetter_eq hd, funext hfg]
  rfl

end

/-- Settles O15: the colour write keeps the header. -/
theorem setPixelWritesOneColour : Obligations.SetPixelWritesOneColour := by
  intro s d idx r g b br hd hlen
  exact ⟨decodeCmd_setPixel idx r g b br, runSetter_modifyPixel hd (fun _ => rfl) hlen idx⟩

/-- Settles O16: the composed write assembles the header and sets the colours. -/
theorem setPixelRgbbWritesOneRecord : Obligations.SetPixelRgbbWritesOneRecord := by
  intro s d idx r g b br hd hlen
  exact ⟨decodeCmd_setPixelRgbb idx r g b br, runSetter_modifyPixel hd (Pixel.setRgbb_eq r g b br) hlen idx⟩

/-- Settles O17: the brightness write keeps the colours. -/
theorem setPixelBrightnessWritesOneHeader : Obligations.SetPixelBrightnessWritesOneHeader := by
  intro s d idx r g b br hd hlen
  exact ⟨decodeCmd_setPixelBrightness idx r g b br, runSetter_modifyPixel hd (Pixel.setBrightness_eq br) hlen idx⟩

/-! ### Bulk commands (R86 to R89) -/

/-- Settles O18: each bulk command is one write on every record. -/
theorem bulkSettersWriteEveryRecord : Obligations.BulkSettersWriteEveryRecord := by
  intro s d idx r g b br hd
  refine ⟨?decoded, ?colours, ?records, ?headers, ?clear⟩
  case decoded =>
    exact ⟨decodeCmd_setAllPixels idx r g b br, decodeCmd_setAllPixelsRgbb idx r g b br,
      decodeCmd_setAllPixelsBrightness idx r g b br, decodeCmd_clear idx r g b br⟩
  case colours => exact runSetter_modifyAll hd fun _ => rfl
  case records => exact runSetter_modifyAll hd (Pixel.setRgbb_eq r g b br)
  case headers => exact runSetter_modifyAll hd (Pixel.setBrightness_eq br)
  case clear => exact runSetter_modifyAll hd fun _ => rfl

/-! ### The flag (R90) -/

/-- Bit 48 of a word is bit 0 of its `r` field (R56). -/
theorem cmdR_getLsbD_zero (w : CmdWord) : (cmdR w).getLsbD 0 = w.getLsbD 48 := by
  simp [cmdR]

/-- Settles O19: the word is put together from its fields, so the equation of its code decodes it. -/
theorem setClearOnTeardownWritesTheFlag : Obligations.SetClearOnTeardownWritesTheFlag := by
  intro s d w hd hop
  refine ⟨?_, fun flag => State.runSetter_eq hd (Device.setCot · flag)⟩
  rw [← cmdR_getLsbD_zero, ← decodeCmd_setClearOnTeardown (cmdIdx w) (cmdR w) (cmdG w) (cmdB w) (cmdBr w), ← hop,
    cmdWord_of_fields]

/-! ### What all eight leave alone (R91) -/

/-- An in-memory write that leaves the sequencer and keeps every header marked as well. -/
structure Device.WroteMarked (d d' : Device) : Prop extends d.Wrote d' where
  seq_eq : d'.seq = d.seq
  keeps_marked : (∀ p ∈ d.pix, p.marked = true) → ∀ p ∈ d'.pix, p.marked = true

theorem Device.wroteMarked_setCot (d : Device) (flag : Bool) : d.WroteMarked (d.setCot flag) where
  __ := d.wrote_setCot flag
  seq_eq := rfl
  keeps_marked := id

section
variable {f : Pixel → Pixel} (hf : ∀ p : Pixel, p.marked = true → (f p).marked = true)
include hf

theorem Device.wroteMarked_modifyPixel (i : Index) (d : Device) : d.WroteMarked (d.modifyPixel i f) where
  __ := d.wrote_modifyPixel i hf
  seq_eq := d.modifyPixel_seq i f
  keeps_marked := Device.modifyPixel_marked i hf

theorem Device.wroteMarked_modifyAll (d : Device) : d.WroteMarked (d.modifyAll f) where
  __ := d.wrote_modifyAll hf
  seq_eq := rfl
  keeps_marked := Device.modifyAll_marked hf

end

/-- Each of the eight commands is an in-memory write that keeps the markers. -/
theorem exec_eq_runSetter_of_isInMemory {i : Instr} (hi : isInMemory i = true) :
    ∃ f : Device → Device, (∀ s, exec i s = s.runSetter f) ∧ ∀ d : Device, d.WroteMarked (f d) := by
  cases i with
  | setPixel idx r g b =>
    exact ⟨_, fun _ => rfl, Device.wroteMarked_modifyPixel (fun _ hp => Pixel.setRgb_marked hp r g b) idx⟩
  | setPixelRgbb idx r g b br =>
    exact ⟨_, fun _ => rfl, Device.wroteMarked_modifyPixel (fun p _ => p.setRgbb_marked r g b br) idx⟩
  | setPixelBrightness idx br =>
    exact ⟨_, fun _ => rfl, Device.wroteMarked_modifyPixel (fun p _ => p.setBrightness_marked br) idx⟩
  | setAllPixels r g b =>
    exact ⟨_, fun _ => rfl, Device.wroteMarked_modifyAll fun _ hp => Pixel.setRgb_marked hp r g b⟩
  | setAllPixelsRgbb r g b br =>
    exact ⟨_, fun _ => rfl, Device.wroteMarked_modifyAll fun p _ => p.setRgbb_marked r g b br⟩
  | setAllPixelsBrightness br =>
    exact ⟨_, fun _ => rfl, Device.wroteMarked_modifyAll fun p _ => p.setBrightness_marked br⟩
  | clear => exact ⟨_, fun _ => rfl, Device.wroteMarked_modifyAll fun _ => Pixel.clear_marked⟩
  | setClearOnTeardown flag => exact ⟨_, fun _ => rfl, (Device.wroteMarked_setCot · flag)⟩
  | _ => cases hi

/-- Settles O20: each of the eight is an in-memory write, which completes on every block. -/
theorem inMemoryCommandsFrame : Obligations.InMemoryCommandsFrame := by
  intro s d i hi hd
  obtain ⟨f, hexec, hf⟩ := exec_eq_runSetter_of_isInMemory hi
  have wrote := hf d
  exact ⟨f d, (hexec s).trans (State.runSetter_eq hd f), wrote.tx_eq, wrote.endLen_eq, wrote.rel_eq, wrote.n_eq,
    wrote.seq_eq, wrote.length_pix, wrote.keeps_marked⟩

end Sys2Proof.Machine
end

section
/-!
PROOFS. Where no block exists (43_flush_teardown.md R98, 70_reset_and_hazards.md R116): every operation but two needs
one.
-/

namespace Sys2Proof.Machine

section
variable {s : State} (hd : s.dev = none)
include hd

/-- Every operation but a construction and the pure default record asks for the live block before anything else. -/
theorem exec_of_no_block {i : Instr} (hc : ∀ cfg, i ≠ .construct cfg) (hp : i ≠ .pxDefault) :
    exec i s = .refused .noBlock := by
  have blockless : s = { s with dev := none } := by rw [← hd]
  rw [blockless]
  cases i with
  | construct cfg => exact absurd rfl (hc cfg)
  | pxDefault => exact absurd rfl hp
  | _ => rfl

theorem State.fetch_command_of_no_block {w : CmdWord} {rest : List Request} (h : s.host = .command w :: rest) :
    s.fetch = .reject .noBlock := by
  simp [State.fetch, h, hd]

end

/-- Settles O58: the operation finds no block to run on, and the word is refused before it is decoded. -/
theorem noBlockNoOperation : Obligations.NoBlockNoOperation := fun _ _ hd hc hp =>
  ⟨exec_of_no_block hd hc hp, fun _ _ h => step_of_fetch_reject (State.fetch_command_of_no_block hd h)⟩

end Sys2Proof.Machine
end

section
/-!
SUPPORT. A block after write calls, and the sections of a frame where a call fails (43_flush_teardown.md R93, R95).
-/

namespace Sys2Proof.Machine

/-- `State.afterCalls` of a block, its sequencer idle again. -/
def Block.afterCalls (calls : List WriteRec) (b : Block) : Block :=
  { dev := { b.dev with seq := Seq.idle, tx := b.dev.tx.after (sentOf calls) }
    hist := b.hist.after b.dev.tx calls
    env := { b.env with writeTick := b.env.writeTick + calls.length } }

theorem Block.afterCalls_nil (b : Block) : b.afterCalls [] = b.toIdle := by
  simp [Block.afterCalls, Block.toIdle, sentOf, History.after]

/-- Calls made after a recorded call follow it. -/
theorem Block.afterCalls_recordWrite (b : Block) (bytes : List Byte) (out : WriteOutcome) (calls : List WriteRec) :
    (b.recordWrite bytes out).afterCalls calls = b.afterCalls ({ bytes := bytes, outcome := out } :: calls) := by
  simp [Block.recordWrite_eq, Block.afterCalls, History.after, sentOf, Nat.add_assoc, Nat.add_comm 1]

theorem State.put_afterCalls {d : Device} (hq : d.seq = Seq.idle) (s : State) (calls : List WriteRec) :
    s.put (Block.afterCalls calls { dev := d, hist := s.hist, env := s.env }) = s.afterCalls d calls := by
  simp only [State.put, Block.afterCalls, State.afterCalls, ← hq]

/-- `State.WriteFailsAt` of a block. -/
structure Block.WriteFailsAt (p : Params) (b : Block) (m j : Nat) : Prop where
  can_fail : b.dev.tx.writeCannotFail p = false
  before : ∀ i < m, b.env.writeScript[b.env.writeTick + i]? = some .ok
  fails : b.env.writeScript[b.env.writeTick + m]? = some (.fail j)

section
variable {p : Params} {b : Block} {m j : Nat}

theorem Block.WriteFailsAt.nextOutcome_fail (hf : b.WriteFailsAt p 0 j) (bytes : List Byte) :
    b.nextOutcome p bytes = .fail (min j bytes.length) := by
  have answer : b.env.writeAnswer bytes = .fail j := by
    simp [Env.writeAnswer, show b.env.writeScript[b.env.writeTick]? = some (.fail j) from hf.fails]
  rw [Block.nextOutcome, answer, allowedOutcome_fail hf.can_fail]

/-- The calls before the failing one return `Ok`. -/
theorem Block.WriteFailsAt.writesOk (hf : b.WriteFailsAt p m j) : b.WritesOk p m := .inr hf.before

theorem Block.WriteFailsAt.recordWrite (hf : b.WriteFailsAt p (m + 1) j) (bytes : List Byte) (out : WriteOutcome) :
    (b.recordWrite bytes out).WriteFailsAt p m j := by
  have shift (i : Nat) : b.env.writeTick + 1 + i = b.env.writeTick + (i + 1) := by omega
  rw [Block.recordWrite_eq]
  exact
    { can_fail := (Transport.after_writeCannotFail _ _ _).trans hf.can_fail
      before := fun i hi => shift i ▸ hf.before (i + 1) (by omega)
      fails := shift m ▸ hf.fails }

variable {secs : List (Phase × List Byte)} (hu : b.dev.tx.usable = true)
include hu

/-- Sections whose calls return `Ok` make one call each (R93). -/
theorem sendSections_eq_of_ok (hok : b.WritesOk p secs.length) :
    sendSections p secs b = .ok (.ok, b.afterCalls (okCalls (secs.map Prod.snd))) := by
  obtain ⟨b', hb⟩ := sendSections_ok hu hok
  obtain ⟨calls, rfl, _, ⟨_, rfl⟩ | ⟨_, _, _, failed, _⟩⟩ := sendSections_cases hb
  · exact hb
  · cases failed

/-- Sections whose call number `m` fails make the calls up to that one and report it (R95). -/
theorem sendSections_eq_of_fail (hm : m < secs.length) (hf : b.WriteFailsAt p m j) :
    sendSections p secs b = .ok (.hardware, b.afterCalls (failedCalls (secs.map Prod.snd) m j)) := by
  induction secs generalizing b m with
  | nil => exact absurd hm (Nat.not_lt_zero m)
  | cons sec secs ih =>
    obtain ⟨ph, bytes⟩ := sec
    have entered : (b.enterPhase ph).WriteFailsAt p m j := ⟨hf.can_fail, hf.before, hf.fails⟩
    cases m with
    | zero =>
      rw [sendSections_cons (Block.txWrite_fail hu (entered.nextOutcome_fail bytes)), if_neg (by decide),
        ← Block.afterCalls_nil, Block.afterCalls_recordWrite]
      rfl
    | succ m =>
      have usable : ((b.enterPhase ph).recordWrite bytes .ok).dev.tx.usable = true := by
        rw [Block.recordWrite_eq]
        exact Transport.after_usable hu _
      rw [sendSections_cons (Block.txWrite_ok hu (entered.writesOk.nextOutcome bytes)), if_pos rfl,
        ih usable (Nat.lt_of_succ_lt_succ hm) (entered.recordWrite bytes .ok), Block.afterCalls_recordWrite]
      rfl

end

/-! ### The flush of a block -/

section
variable {p : Params} {b : Block} (hrel : b.dev.rel = false) (hu : b.dev.tx.usable = true)
include hrel hu

theorem flushBlock_ok (hok : b.WritesOk p 3) : flushBlock p b = .ok (.ok, b.afterCalls (okCalls b.dev.flushCalls)) :=
  (flushBlock_live hrel).trans (sendSections_eq_of_ok hu hok)

theorem flushBlock_fail {m j : Nat} (hm : m < 3) (hf : b.WriteFailsAt p m j) :
    flushBlock p b = .ok (.hardware, b.afterCalls (failedCalls b.dev.flushCalls m j)) :=
  (flushBlock_live hrel).trans (sendSections_eq_of_fail hu hm hf)

/-- Where every write returns, a flush makes its three calls, or those up to one that fails (D24). -/
theorem flushBlock_live_cases (hl : p.transportLive = true) :
    flushBlock p b = .ok (.ok, b.afterCalls (okCalls b.dev.flushCalls)) ∨
      ∃ m j, m < 3 ∧ flushBlock p b = .ok (.hardware, b.afterCalls (failedCalls b.dev.flushCalls m j)) := by
  obtain ⟨st, b', hb⟩ := sendSections_answers hl (secs := b.dev.flushSections) hu
  have flush := (flushBlock_live hrel).trans hb
  obtain ⟨calls, rfl, _, ⟨rfl, rfl⟩ | ⟨m, j, hm, rfl, rfl⟩⟩ := sendSections_cases hb
  · exact .inl flush
  · exact .inr ⟨m, j, hm, flush⟩

end

end Sys2Proof.Machine
end

section
/-!
PROOFS. The statements of 43_flush_teardown.md about `FLUSH` and `SHOW` (R92 to R96).
-/

namespace Sys2Proof.Machine

/-- `SHOW` is `FLUSH` (R92). -/
theorem exec_of_mem_flush_show {i : Instr} (hi : i ∈ [Instr.flush, .showFrame]) (s : State) : exec i s = exec .flush s := by
  simp only [List.mem_cons, List.not_mem_nil, or_false] at hi
  rcases hi with rfl | rfl <;> rfl

/-- A flush of a ready block that answers leaves the block after its calls and reports its result. -/
theorem exec_flush_of_flushBlock {s : State} {d : Device} (hr : s.Ready d) {st : Status} {calls : List WriteRec}
    (h : flushBlock s.params { dev := d, hist := s.hist, env := s.env } =
      .ok (st, Block.afterCalls calls { dev := d, hist := s.hist, env := s.env })) :
    exec .flush s = .next ((s.afterCalls d calls).complete st) := by
  rw [← State.put_afterCalls hr.seq_idle]
  exact State.runCommand_ok hr.dev_eq h

/-- After the teardown a flush makes no write call (R96). -/
theorem exec_flush_released {s : State} {d : Device} (hd : s.dev = some d) (hrel : d.rel = true) :
    exec .flush s = .next (s.complete s.params.postTeardownStatus) := by
  refine (State.runCommand_ok hd (flushBlock_released hrel)).trans ?_
  rw [State.put, ← hd]

/-- Settles O25: `SHOW` is the flush whose three calls return `Ok`. -/
theorem flushMakesThreeWriteCalls : Obligations.FlushMakesThreeWriteCalls := fun s _ hr hok _ hi =>
  (exec_of_mem_flush_show hi s).trans (exec_flush_ok hr hok)

/-- Settles O27: the three sections stop at the failing call. -/
theorem flushStopsAtTheFirstFailure : Obligations.FlushStopsAtTheFirstFailure := by
  intro s d m j hr hm hf i hi
  have fails : Block.WriteFailsAt s.params { dev := d, hist := s.hist, env := s.env } m j :=
    ⟨hf.can_fail, hf.before, hf.fails⟩
  exact (exec_of_mem_flush_show hi s).trans
    (exec_flush_of_flushBlock hr (flushBlock_fail hr.rel_eq hr.usable hm fails))

/-- Settles O28, by the two ways a flush of a live transport ends. -/
theorem flushCompletesWhateverTheAnswers : Obligations.FlushCompletesWhateverTheAnswers := by
  intro s d hr hl
  rcases flushBlock_live_cases (b := { dev := d, hist := s.hist, env := s.env }) hr.rel_eq hr.usable hl with
    ok | ⟨m, j, hm, fail⟩
  · exact .inl (exec_flush_of_flushBlock hr ok)
  · exact .inr ⟨m, j, hm, exec_flush_of_flushBlock hr fail⟩

/-- Settles O29: the result is the parameter's. -/
theorem flushAfterTeardownTouchesNothing : Obligations.FlushAfterTeardownTouchesNothing := by
  intro s d hd hrel i hi
  rw [exec_of_mem_flush_show hi, exec_flush_released hd hrel]
  refine ⟨fun noop => ?_, fun fail => ?_⟩
  · rw [Params.postTeardownStatus, noop]; rfl
  · rw [Params.postTeardownStatus, fail]; rfl

end Sys2Proof.Machine
end

section
/-!
PROOFS. The statements of 43_flush_teardown.md about `TEARDOWN` and `DROP` (R97 to R99).
-/

namespace Sys2Proof.Machine

/-! ### The policy (R97) -/

section
variable {p : Params} {b : Block}

theorem teardownBlock_released (hrel : b.dev.rel = true) : teardownBlock p b = .ok (.ok, b) := if_pos hrel

theorem teardownBlock_of_not_cot (hrel : b.dev.rel = false) (hcot : b.dev.cot = false) :
    teardownBlock p b = releaseBlock .ok b := by
  simp [teardownBlock, hrel, hcot]

/-- The release takes the result of the flush of the cleared buffer, whatever it is (R108). -/
theorem teardownBlock_of_cot (hrel : b.dev.rel = false) (hcot : b.dev.cot = true) {res : Status} {b' : Block}
    (hflush : flushBlock p b.clearPixels = .ok (res, b')) : teardownBlock p b = releaseBlock res b' := by
  simp [teardownBlock, hrel, hcot, hflush]

end

section
variable {s : State} {d : Device}

/-- After the teardown `TEARDOWN` only reports. -/
theorem exec_teardown_released (hd : s.dev = some d) (hrel : d.rel = true) :
    exec .teardown s = .next (s.complete .ok) := by
  refine (State.runCommand_ok hd (teardownBlock_released hrel)).trans ?_
  rw [State.put, ← hd]

/-- A teardown that comes to the release of a block with held handles releases it. -/
theorem exec_teardown_of_releaseBlock (hd : s.dev = some d) {res : Status} {b : Block} (hu : b.dev.tx.usable = true)
    (h : teardownBlock s.params { dev := d, hist := s.hist, env := s.env } = releaseBlock res b) :
    exec .teardown s = .next (((s.put b).released b.dev).complete res) :=
  State.runCommand_ok hd (h.trans (releaseBlock_eq hu res))

variable (hr : s.Ready d)
include hr

theorem exec_teardown_of_not_cot (hcot : d.cot = false) : exec .teardown s = .next ((s.released d).complete .ok) := by
  have release := exec_teardown_of_releaseBlock hr.dev_eq (b := { dev := d, hist := s.hist, env := s.env }) hr.usable
    (teardownBlock_of_not_cot hr.rel_eq hcot)
  rwa [State.put, ← hr.dev_eq] at release

/-- With the flag set the teardown clears, sends what the flush of the cleared buffer sends, and releases. -/
theorem exec_teardown_of_cot (hcot : d.cot = true) {res : Status} {calls : List WriteRec}
    (hflush : flushBlock s.params { dev := d.cleared, hist := s.hist, env := s.env } =
      .ok (res, Block.afterCalls calls { dev := d.cleared, hist := s.hist, env := s.env })) :
    exec .teardown s = .next ((s.clearedSentReleased d calls).complete res) := by
  have idle : d.cleared.seq = Seq.idle := hr.seq_idle
  have release := exec_teardown_of_releaseBlock hr.dev_eq (Transport.after_usable hr.usable (sentOf calls))
    (teardownBlock_of_cot (b := { dev := d, hist := s.hist, env := s.env }) hr.rel_eq hcot hflush)
  rw [State.put_afterCalls idle, Block.afterCalls, ← idle] at release
  exact release

end

/-- Settles O40: done before; the release alone; and the release after a flush that returns `Ok` or fails. -/
theorem teardownRunsThePolicy : Obligations.TeardownRunsThePolicy := by
  refine fun s d => ⟨exec_teardown_released, exec_teardown_of_not_cot, fun hr hcot hok => ?sent, fun m j hr hcot hm hf => ?failed⟩
  case sent =>
    have ok : Block.WritesOk s.params { dev := d.cleared, hist := s.hist, env := s.env } 3 := hok
    exact exec_teardown_of_cot hr hcot (flushBlock_ok hr.rel_eq hr.usable ok)
  case failed =>
    have fails : Block.WriteFailsAt s.params { dev := d.cleared, hist := s.hist, env := s.env } m j :=
      ⟨hf.can_fail, hf.before, hf.fails⟩
    exact exec_teardown_of_cot hr hcot (flushBlock_fail hr.rel_eq hr.usable hm fails)

/-! ### `DROP` (R98) -/

/-- Settles O41: both run the teardown of the block, and where there is none both are refused. -/
theorem dropIsASilentTeardown : Obligations.DropIsASilentTeardown := by
  intro s
  cases hd : s.dev with
  | none =>
    rw [exec_of_no_block hd (i := .drop) (by simp) (by simp), exec_of_no_block hd (i := .teardown) (by simp) (by simp)]
    rfl
  | some d =>
    cases hb : teardownBlock s.params { dev := d, hist := s.hist, env := s.env } with
    | error f =>
      have teardown : exec .teardown s = .fault f := State.runCommand_error hd hb
      rw [teardown]
      exact execDrop_error hd hb
    | ok out =>
      obtain ⟨st, b⟩ := out
      have teardown : exec .teardown s = .next ((s.put b).complete st) := State.runCommand_ok hd hb
      rw [teardown]
      exact execDrop_eq hd hb

/-! ### After the teardown (R99) -/

/-- The twelve commands are the eight in-memory ones and the four of the end of a frame and of a block. -/
theorem isInMemory_or_mem_of_isCommand {i : Instr} (h : i.isCommand = true) :
    isInMemory i = true ∨ i ∈ [Instr.flush, .showFrame, .teardown, .drop] := by
  by_cases hi : i ∈ [Instr.flush, .showFrame, .teardown, .drop]
  · exact .inr hi
  · exact .inl (by simpa [isInMemory, h] using hi)

/-- A report alone touches nothing of a block. -/
theorem State.complete_keeps_block {s : State} {d : Device} (hd : s.dev = some d) (hrel : d.rel = true) (st : Status) :
    ∀ d', (s.complete st).dev = some d' → d'.rel = true ∧ d'.tx = d.tx := by
  rintro d' hd'
  cases hd.symm.trans hd'
  exact ⟨hrel, rfl⟩

/-- Settles O43: an in-memory command changes no more than it ever does, a flush and a teardown only report, and a drop leaves no
block. -/
theorem teardownRunsExactlyOnce : Obligations.TeardownRunsExactlyOnce := by
  intro s d i hcmd hd hrel
  rcases isInMemory_or_mem_of_isCommand hcmd with inMemory | hi
  · obtain ⟨d', hexec, tx_eq, _, rel_eq, _⟩ := inMemoryCommandsFrame s d i inMemory hd
    refine ⟨_, hexec, rfl, rfl, ?_⟩
    rintro _ ⟨⟩
    exact ⟨rel_eq.trans hrel, tx_eq⟩
  · simp only [List.mem_cons, List.not_mem_nil, or_false] at hi
    have flush := exec_flush_released hd hrel
    have teardown := exec_teardown_released hd hrel
    rcases hi with rfl | rfl | rfl | rfl
    · exact ⟨_, flush, rfl, rfl, State.complete_keeps_block hd hrel _⟩
    · exact ⟨_, flush, rfl, rfl, State.complete_keeps_block hd hrel _⟩
    · exact ⟨_, teardown, rfl, rfl, State.complete_keeps_block hd hrel _⟩
    · have drop := dropIsASilentTeardown s
      rw [teardown] at drop
      exact ⟨_, drop, rfl, rfl, by rintro d' ⟨⟩⟩

end Sys2Proof.Machine
end

section
/-!
PROOFS. The statements of 60_exceptions.md: an error is a command's result (R102, R106), and it never prevents the release (R108).
-/

namespace Sys2Proof.Machine

/-! ### Which commands report an error (R102, R106) -/

section
variable {i : Instr} {s t : State}

/-- Every command but `DROP` reports a result, and none the error of a construction. -/
theorem Did.reports (h : Did i s t) (hcmd : i.isCommand = true) (hi : i ≠ .drop) :
    t.done = true ∧ t.status ≠ .construction := by
  cases h with
  | command _ _ _ status_ne _ _ => exact ⟨rfl, status_ne⟩
  | dropped heq _ _ => exact absurd heq hi
  | acted hcmd' _ _ _ _ => rw [hcmd] at hcmd'; cases hcmd'
  | read hcmd' => rw [hcmd] at hcmd'; cases hcmd'
  | constructed heq => subst heq; cases hcmd

/-- An in-memory command that answers reports `Ok` (R91). -/
theorem status_ok_of_isInMemory (hi : isInMemory i = true) (h : exec i s = .next t) : t.status = .ok := by
  obtain ⟨f, hexec, _⟩ := exec_eq_runSetter_of_isInMemory hi
  obtain ⟨d, st, b, _, hb, rfl⟩ := State.runCommand_cases ((hexec s).symm.trans h)
  cases hb
  rfl

/-- Of the four commands that end a frame or a block all but `DROP` can report a failure. -/
theorem canReportFailure_of_mem (hi : i ∈ [Instr.flush, .showFrame, .teardown, .drop]) (hdrop : i ≠ .drop) :
    canReportFailure i = true := by
  simpa [canReportFailure, hdrop] using hi

end

/-- Settles O53: the in-memory commands report `Ok`, and the other three no construction error. -/
theorem onlyTransportCommandsReportErrors : Obligations.OnlyTransportCommandsReportErrors := by
  intro s t i hcmd hdrop h
  obtain ⟨done, status_ne⟩ := (exec_did h).reports hcmd hdrop
  refine ⟨done, ?_⟩
  rcases isInMemory_or_mem_of_isCommand hcmd with inMemory | hi
  · exact .inl (status_ok_of_isInMemory inMemory h)
  · have can := canReportFailure_of_mem hi hdrop
    cases hst : t.status with
    | ok => exact .inl rfl
    | hardware => exact .inr ⟨rfl, can⟩
    | construction => exact absurd hst status_ne

/-! ### The release (R108) -/

section
variable {s : State} {d : Device}

/-- Where every write returns, a teardown of a ready block releases it, after a flush with either result where `COT` is set. -/
theorem exec_teardown_live_cases (hr : s.Ready d) (hl : s.params.transportLive = true) :
    exec .teardown s = .next ((s.released d).complete .ok) ∨
      d.cot = true ∧ ∃ calls res, (res = .ok ∨ res = .hardware) ∧
        exec .teardown s = .next ((s.clearedSentReleased d calls).complete res) := by
  cases hcot : d.cot with
  | false => exact .inl (exec_teardown_of_not_cot hr hcot)
  | true =>
    refine .inr ⟨rfl, ?_⟩
    rcases flushBlock_live_cases (b := { dev := d.cleared, hist := s.hist, env := s.env }) hr.rel_eq hr.usable hl with
      ok | ⟨m, j, _, fail⟩
    · exact ⟨_, .ok, .inl rfl, exec_teardown_of_cot hr hcot ok⟩
    · exact ⟨_, .hardware, .inr rfl, exec_teardown_of_cot hr hcot fail⟩

/-- Where `TEARDOWN` answers, `DROP` answers the same history without a block (R98). -/
theorem exec_drop_of_exec_teardown {t : State} (h : exec .teardown s = .next t) :
    exec .drop s = .next { t with dev := none, status := s.status, done := false } := by
  rw [dropIsASilentTeardown s, h, andThen_next]

end

/-- Sending does not change which releases a transport logs (R81). -/
@[simp] theorem Transport.releaseOps_after (tx : Transport) (bytes : List Byte) :
    (tx.after bytes).releaseOps = tx.releaseOps := by cases tx <;> rfl

/-- The releases come after the pin operations of the flush (R97). -/
theorem State.clearedSentReleased_pinlog (s : State) (d : Device) (calls : List WriteRec) :
    (s.clearedSentReleased d calls).hist.pinlog =
      s.hist.pinlog ++ d.tx.pinOpsFor (sentOf calls) ++ d.tx.releaseOps := by
  rw [← d.tx.releaseOps_after (sentOf calls)]
  rfl

/-- Settles O42: both paths of the teardown come to the release. -/
theorem releaseIsUnconditional : Obligations.ReleaseIsUnconditional := by
  intro s d hr hl
  rcases exec_teardown_live_cases hr hl with release | ⟨hcot, calls, res, hres, sent⟩
  · have torn : d.tx.tornDown = (d.tx.after []).tornDown := by rw [Transport.after_nil]
    have log : s.hist.pinlog ++ d.tx.releaseOps = s.hist.pinlog ++ [] ++ d.tx.releaseOps := by rw [List.append_nil]
    exact ⟨_, _, _, [], release, rfl, rfl, ⟨[], torn⟩, log, .inl rfl, exec_drop_of_exec_teardown release, rfl, rfl⟩
  · have log := s.clearedSentReleased_pinlog d calls
    have status := hres.imp_right fun hardware => And.intro hcot hardware
    exact ⟨_, _, _, _, sent, rfl, rfl, ⟨sentOf calls, rfl⟩, log, status, exec_drop_of_exec_teardown sent, rfl, rfl⟩

end Sys2Proof.Machine
end

section
/-!
PROOFS. The statements of 70_reset_and_hazards.md about construction (R115, R116), by the answers to its acquisitions.
-/

namespace Sys2Proof.Machine

section
variable {s : State} (n : Nat)

/-- An SPI construction whose acquisition succeeds (R115). -/
theorem State.constructed_spi (h₀ : s.env.acquireAnswer 0 = .ok) (bus cs hz mode : Nat) :
    s.constructed ⟨n, .hardwareSpi bus cs hz mode⟩ =
      s.created 1 n (.spi { bus := bus, cs := cs, hz := hz, mode := mode, isOpen := true }) := by
  simp [State.constructed, h₀]

/-- A construction of either variant whose first acquisition fails has nothing to release (R116). -/
theorem State.constructed_of_first_fails (h₀ : s.env.acquireAnswer 0 = .fail) (tx : TransportChoice) :
    s.constructed ⟨n, tx⟩ = s.notCreated 1 [] := by
  cases tx <;> simp [State.constructed, h₀]

/-- A GPIO construction that fails at the clock pin releases the data pin (R116, D21). -/
theorem State.constructed_of_clk_fails (h₀ : s.env.acquireAnswer 0 = .ok) (h₁ : s.env.acquireAnswer 1 = .fail)
    (pinData pinClk : Nat) :
    s.constructed ⟨n, .gpioBitbang pinData pinClk⟩ = s.notCreated 2 [.releaseData] := by
  simp [State.constructed, h₀, h₁]

end

/-- `CONSTRUCT` answers what it constructs. -/
theorem exec_construct_of_constructed {s t : State} {cfg : ConstructCfg} (h : s.constructed cfg = t) :
    exec (.construct cfg) s = .next t := congrArg Host.Outcome.next h

/-- Settles O44, variant by variant: the created state holds the reset values. -/
theorem constructMakesAFreshBlock : Obligations.ConstructMakesAFreshBlock := by
  refine fun s n => ⟨fun pd pc data clk => ?gpio, fun bus cs hz mode channel => ?spi⟩
  case gpio =>
    exact exec_construct_of_constructed
      (State.constructed_gpio (Env.acquireAnswer_of_script data) (Env.acquireAnswer_of_script clk) n pd pc)
  case spi =>
    exact exec_construct_of_constructed (State.constructed_spi n (Env.acquireAnswer_of_script channel) bus cs hz mode)

/-- Settles O45, by the acquisition that fails. -/
theorem failedConstructionLeavesNoBlock : Obligations.FailedConstructionLeavesNoBlock := by
  refine fun s n pd pc bus cs hz mode => ⟨fun first => ?first, fun data clk => ?clk⟩
  case first =>
    have fails := State.constructed_of_first_fails n (Env.acquireAnswer_of_script first)
    exact ⟨exec_construct_of_constructed (fails _), exec_construct_of_constructed (fails _)⟩
  case clk =>
    exact exec_construct_of_constructed
      (State.constructed_of_clk_fails n (Env.acquireAnswer_of_script data) (Env.acquireAnswer_of_script clk) pd pc)

/-- Settles O46: a construction makes a fresh block or leaves none. -/
theorem constructAlwaysAnswers : Obligations.ConstructAlwaysAnswers := by
  intro s cfg
  rcases s.constructed_cases cfg with ⟨k, tx, _, _, _, created⟩ | ⟨k, ops, notCreated⟩
  · exact ⟨_, exec_construct_of_constructed created, .inl ⟨Device.fresh cfg.pixelCount tx, rfl, rfl, rfl⟩⟩
  · exact ⟨_, exec_construct_of_constructed notCreated, .inr ⟨rfl, rfl⟩⟩

end Sys2Proof.Machine
end

section
/-!
SUPPORT. A write call that never returns (R125, U9): where the first call does not return the operation is stuck, and where every call
returns (`TRANSPORT_LIVE`) no run of the block ends so.
-/

namespace Sys2Proof.Machine

/-! ### The first call blocks -/

theorem allowedOutcome_blocked {p : Params} (hl : p.transportLive = false) (tx : Transport) (len : Nat) :
    allowedOutcome p tx len .blocked = .blocked := by
  simp [allowedOutcome, hl]

section
variable {p : Params} {b : Block} {bytes : List Byte}

/-- A call on held handles to which the environment's script never returns. -/
theorem Block.txWrite_blocked (hu : b.dev.tx.usable = true) (hl : p.transportLive = false)
    (hs : b.env.writeScript[b.env.writeTick]? = some .blocked) : b.txWrite p bytes = .error .writeBlocked := by
  have answer : b.env.writeAnswer bytes = .blocked := by simp [Env.writeAnswer, hs]
  have outcome : b.nextOutcome p bytes = .blocked := by rw [Block.nextOutcome, answer, allowedOutcome_blocked hl]
  simp [Block.txWrite, hu, outcome]

theorem sendSections_error {ph : Phase} {rest : List (Phase × List Byte)} {f : Fault}
    (h : (b.enterPhase ph).txWrite p bytes = .error f) : sendSections p ((ph, bytes) :: rest) b = .error f := by
  simp [sendSections, h]

/-- A flush is stuck where its start frame is. -/
theorem flushBlock_blocked (hrel : b.dev.rel = false) (hu : b.dev.tx.usable = true) (hl : p.transportLive = false)
    (hs : b.env.writeScript[b.env.writeTick]? = some .blocked) : flushBlock p b = .error .writeBlocked :=
  (flushBlock_live hrel).trans (sendSections_error (Block.txWrite_blocked (b := b.enterPhase .start) hu hl hs))

end

/-! ### Every call returns -/

section
variable {p : Params} (hl : p.transportLive = true)
include hl

theorem Block.txWrite_ne_blocked (bytes : List Byte) (b : Block) : b.txWrite p bytes ≠ .error .writeBlocked := by
  intro h
  rcases Block.txWrite_error h with ⟨_, hf⟩ | ⟨ho, _⟩
  · cases hf
  · exact allowedOutcome_ne_blocked hl _ _ _ ho

theorem sendSections_ne_blocked (secs : List (Phase × List Byte)) (b : Block) :
    sendSections p secs b ≠ .error .writeBlocked := by
  induction secs generalizing b with
  | nil => nofun
  | cons sec secs ih =>
    obtain ⟨ph, bytes⟩ := sec
    have call := Block.txWrite_ne_blocked hl bytes (b.enterPhase ph)
    unfold sendSections
    split
    next f hw =>
      rintro ⟨⟩
      exact call hw
    next st b' _ =>
      split
      · exact ih b'
      · nofun

theorem flushBlock_ne_blocked (b : Block) : flushBlock p b ≠ .error .writeBlocked := by
  unfold flushBlock
  split
  · nofun
  · exact sendSections_ne_blocked hl _ b

theorem frameBlock_ne_blocked (ph : Phase) (bytes : List Byte) (b : Block) :
    frameBlock p ph bytes b ≠ .error .writeBlocked := by
  unfold frameBlock
  split
  · nofun
  · exact sendSections_ne_blocked hl _ b

end

/-- A transport's teardown makes no write call (R81, R82). -/
theorem Block.txTeardown_ne_blocked (b : Block) : b.txTeardown ≠ .error .writeBlocked := by
  unfold Block.txTeardown
  split
  · split <;> nofun
  · nofun

theorem releaseBlock_ne_blocked (res : Status) (b : Block) : releaseBlock res b ≠ .error .writeBlocked := by
  unfold releaseBlock
  split
  next f hf =>
    rintro ⟨⟩
    exact b.txTeardown_ne_blocked hf
  next => nofun

/-- Of what a teardown does only the flush makes write calls (R97). -/
theorem teardownBlock_ne_blocked {p : Params} (hl : p.transportLive = true) (b : Block) :
    teardownBlock p b ≠ .error .writeBlocked := by
  unfold teardownBlock
  split
  · nofun
  split
  · split
    next f hf =>
      rintro ⟨⟩
      exact flushBlock_ne_blocked hl _ hf
    next res b' _ => exact releaseBlock_ne_blocked res b'
  · exact releaseBlock_ne_blocked .ok b

/-! ### The operations of the machine -/

section
variable {s : State} {e : Fault}

/-- An operation of the live block faults only as its body does. -/
theorem State.withBlock_ne_fault {f : Block → Host.Outcome State Fault Refusal} (hf : ∀ b, f b ≠ .fault e) :
    s.withBlock f ≠ .fault e := by
  unfold State.withBlock
  split
  · nofun
  · exact hf _

section
variable {f : Block → Except Fault (Status × Block)} (hf : ∀ b, f b ≠ .error e)
include hf

theorem State.runCommand_ne_fault : s.runCommand f ≠ .fault e := by
  refine State.withBlock_ne_fault fun b => ?_
  split
  next hb => rintro ⟨⟩; exact hf b hb
  next => nofun

theorem State.runInternal_ne_fault : s.runInternal f ≠ .fault e := by
  refine State.withBlock_ne_fault fun b => ?_
  split
  next hb => rintro ⟨⟩; exact hf b hb
  next => nofun

end

theorem State.runSetter_ne_fault (f : Device → Device) : s.runSetter f ≠ .fault e :=
  State.runCommand_ne_fault fun _ => nofun

theorem exec_ne_fault_of_isInMemory {i : Instr} (hi : isInMemory i = true) : exec i s ≠ .fault e := by
  obtain ⟨f, hexec, _⟩ := exec_eq_runSetter_of_isInMemory hi
  rw [hexec]
  exact State.runSetter_ne_fault f

theorem State.runPixelOp_ne_fault (f : Device → Device) : s.runPixelOp f ≠ .fault e :=
  State.withBlock_ne_fault fun _ => nofun

theorem State.runGetter_ne_fault (i : Index) (f : Pixel → Ret) : s.runGetter i f ≠ .fault e := by
  refine State.withBlock_ne_fault fun b => ?_
  split <;> nofun

theorem execTxTeardownSpi_ne_fault : execTxTeardownSpi s ≠ .fault e := by
  refine State.withBlock_ne_fault fun b => ?_
  split <;> nofun

theorem execTxTeardownGpio_ne_blocked : execTxTeardownGpio s ≠ .fault .writeBlocked := by
  refine State.withBlock_ne_fault fun b => ?_
  split
  · split
    next f hf => rintro ⟨⟩; exact b.txTeardown_ne_blocked hf
    next => nofun
  · nofun

section
variable (hl : s.params.transportLive = true)
include hl

theorem execDrop_ne_blocked : execDrop s ≠ .fault .writeBlocked := by
  refine State.withBlock_ne_fault fun b => ?_
  split
  next hb => rintro ⟨⟩; exact teardownBlock_ne_blocked hl b hb
  next => nofun

theorem execTxWrite_ne_blocked (bytes : List Byte) : execTxWrite bytes s ≠ .fault .writeBlocked :=
  State.runInternal_ne_fault (Block.txWrite_ne_blocked hl bytes)

theorem execTxWriteGpio_ne_blocked (bytes : List Byte) : execTxWriteGpio bytes s ≠ .fault .writeBlocked := by
  refine State.withBlock_ne_fault fun b => ?_
  split
  · exact execTxWrite_ne_blocked hl bytes
  · nofun

theorem execTxWriteSpi_ne_blocked (bytes : List Byte) : execTxWriteSpi bytes s ≠ .fault .writeBlocked := by
  refine State.withBlock_ne_fault fun b => ?_
  split
  · nofun
  · exact execTxWrite_ne_blocked hl bytes

/-- Where every write returns no operation is stuck (R125): the in-memory commands never fault, the rest by their form. -/
theorem exec_ne_blocked (i : Instr) : exec i s ≠ .fault .writeBlocked := by
  by_cases inMemory : isInMemory i = true
  · exact exec_ne_fault_of_isInMemory inMemory
  cases i with
  | flush => exact State.runCommand_ne_fault (flushBlock_ne_blocked hl)
  | showFrame => exact State.runCommand_ne_fault (flushBlock_ne_blocked hl)
  | teardown => exact State.runCommand_ne_fault (teardownBlock_ne_blocked hl)
  | drop => exact execDrop_ne_blocked hl
  | startFrame => exact State.runInternal_ne_fault (frameBlock_ne_blocked hl _ _)
  | ledFrame k blue green red => exact State.runInternal_ne_fault (frameBlock_ne_blocked hl _ _)
  | endFrame =>
    exact State.runInternal_ne_fault (f := fun b => frameBlock s.params .endFrame (zeros b.dev.endLen) b)
      fun b => frameBlock_ne_blocked hl _ _ b
  | pxSetRgb j r g b => exact State.runPixelOp_ne_fault (Device.modifyPixel · j _)
  | pxSetBrightness j x => exact State.runPixelOp_ne_fault (Device.modifyPixel · j _)
  | pxSetRgbb j r g b x => exact State.runPixelOp_ne_fault (Device.modifyPixel · j _)
  | pxClear j => exact State.runPixelOp_ne_fault (Device.modifyPixel · j _)
  | pxRgb j => exact State.runGetter_ne_fault j _
  | pxBrightness j => exact State.runGetter_ne_fault j _
  | pxRgbb j => exact State.runGetter_ne_fault j _
  | pxRawBytes j => exact State.runGetter_ne_fault j _
  | pxDefault => nofun
  | txWrite bytes => exact execTxWrite_ne_blocked hl bytes
  | txWriteGpio bytes => exact execTxWriteGpio_ne_blocked hl bytes
  | txWriteSpi bytes => exact execTxWriteSpi_ne_blocked hl bytes
  | txTeardownGpio => exact execTxTeardownGpio_ne_blocked
  | txTeardownSpi => exact execTxTeardownSpi_ne_fault
  | construct cfg => nofun
  | _ => exact absurd rfl inMemory

end

end

end Sys2Proof.Machine
end

section
/-!
PROOFS. The statement of 70_reset_and_hazards.md about a write call that never returns (R125).
-/

namespace Sys2Proof.Machine

/-- Settles O39: the first call of either operation blocks; and under `TRANSPORT_LIVE` no operation's body does. -/
theorem blockedWriteIsStuck : Obligations.BlockedWriteIsStuck := by
  refine ⟨fun s d bytes hr hl hs => ⟨?write, ?flush⟩, fun s i hl => exec_ne_blocked hl i⟩
  case write => exact State.runInternal_error hr.dev_eq (Block.txWrite_blocked hr.usable hl hs)
  case flush => exact State.runCommand_error hr.dev_eq (flushBlock_blocked hr.rel_eq hr.usable hl hs)

end Sys2Proof.Machine
end
